-- ==== Sys2Proof/Word.lean ====
section
/-! DEFINITION. The word and the byte of the machine (00_scope.md R4, R7, R10). -/

namespace Sys2Proof

/-- A 16-bit word: a register value, an address, an instruction word, an ALU operand (R7). -/
abbrev Word := BitVec 16

/-- A byte of data memory (R10). -/
abbrev Byte := BitVec 8

end Sys2Proof
end

