-- ==== Sys2Proof/Machine/Memory.lean ====
section
/-! DEFINITION. A memory as a list of address and value pairs in one canonical form: addresses
strictly rising and below 65536. An address that is not listed holds no value (10_state.md R36), so
no entry can equal what an unlisted address reads as. The data memory lists bytes (Host.Cell), the
program memory 16-bit words. -/

namespace Sys2Proof.Machine

/-- The value at an address, none where the address holds no value (10_state.md R36). -/
def Memory.find {α : Type} : List (Nat × α) → Nat → Option α
  | [], _ => none
  | (b, v) :: m, a => if a = b then some v else Memory.find m a

/-- The memory after a value is written at an address: the entry is put in its place in the rising
order, or takes the place of the entry the address had. -/
def Memory.put {α : Type} : List (Nat × α) → Nat → α → List (Nat × α)
  | [], a, v => [(a, v)]
  | (b, u) :: m, a, v =>
    if a < b then (a, v) :: (b, u) :: m
    else if a = b then (a, v) :: m
    else (b, u) :: Memory.put m a v

/-- The canonical form from an address up: the entries' addresses rise strictly from `lo` and stay
below 65536, the number of addresses of a 16-bit address (10_state.md R32, R33). -/
def Memory.wfFrom {α : Type} : Nat → List (Nat × α) → Bool
  | _, [] => true
  | lo, (a, _) :: m => decide (lo ≤ a) && decide (a < 65536) && Memory.wfFrom (a + 1) m

/-- The canonical form of a memory. -/
def Memory.wf {α : Type} (m : List (Nat × α)) : Bool := Memory.wfFrom 0 m

end Sys2Proof.Machine
end

