-- ==== Sys2Proof/Config.lean ====
section
/-! DEFINITION. The parameters the spec leaves open (00_scope.md R5) as one configuration record,
and the free bits that `draw()` yields (R8). The record's default VALUES are in Machine/Params.lean. -/

namespace Sys2Proof

/-- `BYTE_ORDER` (20_memory.md R50): which byte of a word sits at the lower data address. -/
inductive ByteOrder where
  | little
  | big
deriving DecidableEq, Repr

/-- `MISALIGNED_WORD` (20_memory.md R53): what a word access at an odd address does. -/
inductive MisalignedWord where
  | refuse
  | clearBit0
deriving DecidableEq, Repr

/-- `REL_BASE` (30_encoding.md R90): what a PC-relative offset is added to. -/
inductive RelBase where
  | next
  | self
deriving DecidableEq, Repr

/-- `T4_K_DECODE` (30_encoding.md R92): how the 6-bit field of T4 maps to the offset -16..47. -/
inductive T4Decode where
  | signfill
  | excess16
  | signedPlus16
deriving DecidableEq, Repr

/-- `LOGIC_CV` (10_state.md R28): C and V after a logical instruction. -/
inductive LogicCV where
  | draw
  | unchanged
  | cleared
deriving DecidableEq, Repr

/-- `CMPRR_LEFT` (48_two_register.md R201): which field is the minuend of `cmp Rs, Rd`. -/
inductive CmpLeft where
  | rd
  | rs
deriving DecidableEq, Repr

/-- `IRQ_MODEL` (60_exceptions.md R236, R237): no interrupt is ever delivered, or the optional
candidate_A with its `IRQ_VECTOR`. -/
inductive IrqModel where
  | noDelivery
  | candidateA (vector : Word)
deriving DecidableEq, Repr

/-- `SRAR_LAYOUT` (10_state.md R25): the bit position of each flag in the word that
`mov SRAR, Rd` and `mov Rd, SRAR` move. -/
structure SrarLayout where
  i : Fin 16
  v : Fin 16
  s : Fin 16
  c : Fin 16
  z : Fin 16
  ac : Fin 16
  az : Fin 16
deriving DecidableEq, Repr

/-- The layout gives the seven flags distinct bit positions (the premise of 10_state.md R39). -/
def SrarLayout.distinct (l : SrarLayout) : Bool :=
  decide [l.i, l.v, l.s, l.c, l.z, l.ac, l.az].Nodup

/-- The open parameters of 00_scope.md R5. `IRQ_VECTOR` stands inside `irqModel`. -/
structure Config where
  pmemWords : Nat
  dmemBytes : Nat
  byteOrder : ByteOrder
  misaligned : MisalignedWord
  relBase : RelBase
  t4Decode : T4Decode
  logicCV : LogicCV
  azChain : Bool
  srarLayout : SrarLayout
  cmprrLeft : CmpLeft
  strictX : Bool
  irqModel : IrqModel
  resetPc : Word
deriving DecidableEq, Repr

/-- The free bits: `draw()` of 00_scope.md R8, "a one-bit value the spec does not fix". It has no
body, so nothing proved of the machine can depend on its values; the n-th draw of a run is
`Config.freeBit` of the draw counter (10_state.md R28; assumption log 6). -/
opaque Config.freeBit : Nat → Bool

end Sys2Proof
end

