-- ==== Sys2Proof/Machine/Params.lean ====
section
/-! DEFINITION. The default of every parameter of 00_scope.md R5. State.reset has these;
State.launch is the state after reset for any others, and every operation reads the state's own
configuration. -/

namespace Sys2Proof.Machine

/-- The default `SRAR_LAYOUT` (10_state.md R25): AZ 0, AC 1, Z 2, C 3, S 4, V 5, I 6. -/
def defaultLayout : SrarLayout :=
  { i := 6, v := 5, s := 4, c := 3, z := 2, ac := 1, az := 0 }

/-- The defaults of 00_scope.md R5. -/
def defaultConfig : Config :=
  { pmemWords := 65536
    dmemBytes := 65536
    byteOrder := .little
    misaligned := .refuse
    relBase := .next
    t4Decode := .signfill
    logicCV := .draw
    azChain := false
    srarLayout := defaultLayout
    cmprrLeft := .rd
    strictX := false
    irqModel := .noDelivery
    resetPc := 0x0000 }

end Sys2Proof.Machine
end

