-- ==== Sys2Proof/Syntax.lean ====
section
/-! DEFINITION. The instructions: one constructor per row of spec/opcode_table.json (30_encoding.md
R100, R103). A field holds what the encoding gives it: a register name, an offset or immediate
field, the unused "x" bits (R101), the whole second word (R96). -/

namespace Sys2Proof

/-- The eight registers a 3-bit field names (10_state.md R21): 0 to 6 are R0 to R6, 7 is SP. -/
inductive Reg where
  | r0
  | r1
  | r2
  | r3
  | r4
  | r5
  | r6
  | sp
deriving DecidableEq, Repr

/-- The eight encoded condition codes, in the order of their numbers (10_state.md R31). -/
inductive Cond where
  | eq
  | ne
  | uge
  | ult
  | lt
  | ge
  | ugt
  | gt
deriving DecidableEq, Repr

/-- The instructions and the reserved encodings of the opcode map. -/
inductive Instr where
  /-- `jmp Label` (T1, R110). -/
  | jmprel (a : BitVec 12)
  /-- `call Label` (T1, R111). -/
  | callrel (a : BitVec 12)
  /-- `breq Label` (T2, R112). -/
  | breq (a : BitVec 10)
  /-- `brne Label` (T2, R112). -/
  | brne (a : BitVec 10)
  /-- `bruge Label` (T2, R112). -/
  | bruge (a : BitVec 10)
  /-- `brult Label` (T2, R112). -/
  | brult (a : BitVec 10)
  /-- `brlt Label` (T2, R112). -/
  | brlt (a : BitVec 10)
  /-- `brge Label` (T2, R112). -/
  | brge (a : BitVec 10)
  /-- `brugt Label` (T2, R112). -/
  | brugt (a : BitVec 10)
  /-- `brgt Label` (T2, R112). -/
  | brgt (a : BitVec 10)
  /-- `mov K, Rd` (T3, R120). -/
  | movkr (k : BitVec 8) (rd : Reg)
  /-- `cmp Rd, K` (T3, R121). -/
  | cmpkr (k : BitVec 8) (rd : Reg)
  /-- `add Rd, K, Rd` (T3, R122). -/
  | addkr (k : BitVec 8) (rd : Reg)
  /-- `sub Rd, K, Rd` (T3, R123). -/
  | subkr (k : BitVec 8) (rd : Reg)
  /-- `and Rd, K, Rd` (T3, R124). -/
  | andkr (k : BitVec 8) (rd : Reg)
  /-- `or Rd, K, Rd` (T3, R125). -/
  | orkr (k : BitVec 8) (rd : Reg)
  /-- `xor Rd, K, Rd` (T3, R126). -/
  | xorkr (k : BitVec 8) (rd : Reg)
  /-- `ld.w [Rs, K], Rd` (T4, R130). -/
  | mov16mr (k : BitVec 6) (rs : Reg) (rd : Reg)
  /-- `ld.sb [Rs, K], Rd` (T4, R131). -/
  | movs8mr (k : BitVec 6) (rs : Reg) (rd : Reg)
  /-- `st.w Rd, [Rs, K]` (T4, R132). -/
  | mov16rm (k : BitVec 6) (rs : Reg) (rd : Reg)
  /-- `st.b Rd, [Rs, K]` (T4, R133). -/
  | mov8rm (k : BitVec 6) (rs : Reg) (rd : Reg)
  /-- `add Rn, Rs, Rd` (T5, R140). -/
  | addrrr (rn : Reg) (rs : Reg) (rd : Reg)
  /-- `addc Rn, Rs, Rd` (T5, R141). -/
  | adcrrr (rn : Reg) (rs : Reg) (rd : Reg)
  /-- `sub Rn, Rs, Rd` (T5, R142). -/
  | subrrr (rn : Reg) (rs : Reg) (rd : Reg)
  /-- `subc Rn, Rs, Rd` (T5, R143). -/
  | subcrrr (rn : Reg) (rs : Reg) (rd : Reg)
  /-- `or Rn, Rs, Rd` (T5, R144). -/
  | orrrr (rn : Reg) (rs : Reg) (rd : Reg)
  /-- `and Rn, Rs, Rd` (T5, R145). -/
  | andrrr (rn : Reg) (rs : Reg) (rd : Reg)
  /-- `xor Rn, Rs, Rd` (T5, R146). -/
  | xorrrr (rn : Reg) (rs : Reg) (rd : Reg)
  /-- `ld.w [Rn, Rs], Rd` (T5, R150). -/
  | mov16nr (rn : Reg) (rs : Reg) (rd : Reg)
  /-- `ld.zb [Rn, Rs], Rd` (T5, R151). -/
  | mov8znr (rn : Reg) (rs : Reg) (rd : Reg)
  /-- `ld.sb [Rn, Rs], Rd` (T5, R152). -/
  | mov8snr (rn : Reg) (rs : Reg) (rd : Reg)
  /-- `st.w Rd, [Rn, Rs]` (T5, R153). -/
  | mov16rn (rn : Reg) (rs : Reg) (rd : Reg)
  /-- `st.b Rd, [Rn, Rs]` (T5, R154). -/
  | mov8rn (rn : Reg) (rs : Reg) (rd : Reg)
  /-- `seleq Rn, Rs, Rd` (T6, R160). -/
  | seleq (rn : Reg) (rs : Reg) (rd : Reg)
  /-- `selne Rn, Rs, Rd` (T6, R160). -/
  | selne (rn : Reg) (rs : Reg) (rd : Reg)
  /-- `seluge Rn, Rs, Rd` (T6, R160). -/
  | seluge (rn : Reg) (rs : Reg) (rd : Reg)
  /-- `selult Rn, Rs, Rd` (T6, R160). -/
  | selult (rn : Reg) (rs : Reg) (rd : Reg)
  /-- `sellt Rn, Rs, Rd` (T6, R160). -/
  | sellt (rn : Reg) (rs : Reg) (rd : Reg)
  /-- `selge Rn, Rs, Rd` (T6, R160). -/
  | selge (rn : Reg) (rs : Reg) (rd : Reg)
  /-- `selugt Rn, Rs, Rd` (T6, R160). -/
  | selugt (rn : Reg) (rs : Reg) (rd : Reg)
  /-- `selgt Rn, Rs, Rd` (T6, R160). -/
  | selgt (rn : Reg) (rs : Reg) (rd : Reg)
  /-- `seteq Rd` (T7, R161). -/
  | seteq (x : BitVec 3) (rd : Reg)
  /-- `setne Rd` (T7, R161). -/
  | setne (x : BitVec 3) (rd : Reg)
  /-- `setuge Rd` (T7, R161). -/
  | setuge (x : BitVec 3) (rd : Reg)
  /-- `setult Rd` (T7, R161). -/
  | setult (x : BitVec 3) (rd : Reg)
  /-- `setlt Rd` (T7, R161). -/
  | setlt (x : BitVec 3) (rd : Reg)
  /-- `setge Rd` (T7, R161). -/
  | setge (x : BitVec 3) (rd : Reg)
  /-- `setugt Rd` (T7, R161). -/
  | setugt (x : BitVec 3) (rd : Reg)
  /-- `setgt Rd` (T7, R161). -/
  | setgt (x : BitVec 3) (rd : Reg)
  /-- `ret` (T8, R170). -/
  | ret (x : BitVec 6)
  /-- `reti` (T8, R172). -/
  | reti (x : BitVec 6)
  /-- `dint` (T8, R173). -/
  | dint (x : BitVec 6)
  /-- `eint` (T8, R174). -/
  | eint (x : BitVec 6)
  /-- `call &A` (T8, R171). -/
  | calladr (x : BitVec 6) (a : Word)
  /-- `jmp Rd` (T9, R180). -/
  | jmpreg (x : BitVec 3) (rd : Reg)
  /-- `call Rd` (T9, R181). -/
  | callreg (x : BitVec 3) (rd : Reg)
  /-- `push Rd` (T9, R182). -/
  | push (x : BitVec 3) (rd : Reg)
  /-- `pop Rd` (T9, R183). -/
  | pop (x : BitVec 3) (rd : Reg)
  /-- `mov SRAR, Rd` (T9, R184). -/
  | movSr (x : BitVec 3) (rd : Reg)
  /-- `mov Rd, SRAR` (T9, R185). -/
  | movrS (x : BitVec 3) (rd : Reg)
  /-- `mov #K, Rd` (T9, R190). -/
  | movKr (x : BitVec 3) (rd : Reg) (k : Word)
  /-- `ld.w [&A], Rd` (T9, R191). -/
  | mov16ar (x : BitVec 3) (rd : Reg) (a : Word)
  /-- `ld.zb [&A], Rd` (T9, R192). -/
  | mov8zar (x : BitVec 3) (rd : Reg) (a : Word)
  /-- `ld.sb [&A], Rd` (T9, R193). -/
  | mov8sar (x : BitVec 3) (rd : Reg) (a : Word)
  /-- `st.w Rd, [&A]` (T9, R194). -/
  | mov16ra (x : BitVec 3) (rd : Reg) (a : Word)
  /-- `st.b Rd, [&A]` (T9, R195). -/
  | mov8ra (x : BitVec 3) (rd : Reg) (a : Word)
  /-- `mov Rs, Rd` (T10, R200). -/
  | movrr (rs : Reg) (rd : Reg)
  /-- `cmp Rs, Rd` (T10, R201). -/
  | cmprr (rs : Reg) (rd : Reg)
  /-- `zext Rs, Rd` (T10, R202). -/
  | zext (rs : Reg) (rd : Reg)
  /-- `sext Rs, Rd` (T10, R203). -/
  | sext (rs : Reg) (rd : Reg)
  /-- `bswap Rs, Rd` (T10, R204). -/
  | bswap (rs : Reg) (rd : Reg)
  /-- `sextw Rs, Rd` (T10, R205). -/
  | sextw (rs : Reg) (rd : Reg)
  /-- `ld {Rs}, Rd` (T10, R206). -/
  | mov16pr (rs : Reg) (rd : Reg)
  /-- `lsr Rs, Rd` (T10, R210). -/
  | lsr (rs : Reg) (rd : Reg)
  /-- `lsl Rs, Rd` (T10, R211). -/
  | lsl (rs : Reg) (rd : Reg)
  /-- `asr Rs, Rd` (T10, R212). -/
  | asr (rs : Reg) (rd : Reg)
  /-- `neg Rs, Rd` (T10, R213). -/
  | neg (rs : Reg) (rd : Reg)
  /-- `not Rs, Rd` (T10, R214). -/
  | notrr (rs : Reg) (rd : Reg)
  /-- `add Rs, #K, Rd` (T10, R220). -/
  | movMr (rs : Reg) (rd : Reg) (k : Word)
  /-- `ld.w [Rs, #K], Rd` (T10, R221). -/
  | mov16Mr (rs : Reg) (rd : Reg) (k : Word)
  /-- `ld.zb [Rs, #K], Rd` (T10, R222). -/
  | mov8zMr (rs : Reg) (rd : Reg) (k : Word)
  /-- `ld.sb [Rs, #K], Rd` (T10, R223). -/
  | mov8sMr (rs : Reg) (rd : Reg) (k : Word)
  /-- `st.w Rd, [Rs, #K]` (T10, R224). -/
  | mov16rM (rs : Reg) (rd : Reg) (k : Word)
  /-- `st.b Rd, [Rs, #K]` (T10, R225). -/
  | mov8rM (rs : Reg) (rd : Reg) (k : Word)
  /-- The reserved encoding 10111kkkkkkkkddd (T3, R100). -/
  | reservedT3_111 (k : BitVec 8) (rd : Reg)
  /-- The reserved encoding 0010111nnnsssddd (T5, R100). -/
  | reservedT5_0111 (rn : Reg) (rs : Reg) (rd : Reg)
  /-- The reserved encoding 0011000nnnsssddd (T5, R100). -/
  | reservedT5_1000 (rn : Reg) (rs : Reg) (rd : Reg)
  /-- The reserved encoding 0011110nnnsssddd (T5, R100). -/
  | reservedT5_1110 (rn : Reg) (rs : Reg) (rd : Reg)
  /-- The reserved encoding 0011111nnnsssddd (T5, R100). -/
  | reservedT5_1111 (rn : Reg) (rs : Reg) (rd : Reg)
  /-- The reserved encoding 0001000110xxxxxx (T8, R100). -/
  | reservedT8_100 (x : BitVec 6)
  /-- The reserved encoding 0001010110xxxxxx (T8, R100). -/
  | reservedT8_101 (x : BitVec 6)
  /-- The reserved encoding 0001100110xxxxxx (T8, R100). -/
  | reservedT8_110 (x : BitVec 6)
  /-- The reserved encoding 0001000100xxxddd (T9, R100). -/
  | reservedT9_100_0 (x : BitVec 3) (rd : Reg)
  /-- The reserved encoding 0001010100xxxddd (T9, R100). -/
  | reservedT9_101_0 (x : BitVec 3) (rd : Reg)
  /-- The reserved encoding 0001100101xxxddd (T9, R100). -/
  | reservedT9_110_1 (x : BitVec 3) (rd : Reg)
  /-- The reserved encoding 0001110101xxxddd (T9, R100). -/
  | reservedT9_111_1 (x : BitVec 3) (rd : Reg)
  /-- The reserved encoding 0001100000sssddd (T10, R100). -/
  | reservedT10_110_00 (rs : Reg) (rd : Reg)
  /-- The reserved encoding 0000110001sssddd (T10, R100). -/
  | reservedT10_011_01 (rs : Reg) (rd : Reg)
  /-- The reserved encoding 0001000001sssddd (T10, R100). -/
  | reservedT10_100_01 (rs : Reg) (rd : Reg)
  /-- The reserved encoding 0001110001sssddd (T10, R100). -/
  | reservedT10_111_01 (rs : Reg) (rd : Reg)
  /-- The reserved encoding 0001100010sssddd (T10, R100). -/
  | reservedT10_110_10 (rs : Reg) (rd : Reg)
  /-- The reserved encoding 0001110010sssddd (T10, R100). -/
  | reservedT10_111_10 (rs : Reg) (rd : Reg)
  /-- The reserved encoding 000ooo0011sssddd (T10, R100). -/
  | reservedT10_xxx_11 (op : BitVec 3) (rs : Reg) (rd : Reg)
deriving DecidableEq, Repr

/-- The name of an instruction's row in spec/opcode_table.json. -/
def Instr.mnemonic : Instr → String
  | .jmprel _ => "jmprel"
  | .callrel _ => "callrel"
  | .breq _ => "breq"
  | .brne _ => "brne"
  | .bruge _ => "bruge"
  | .brult _ => "brult"
  | .brlt _ => "brlt"
  | .brge _ => "brge"
  | .brugt _ => "brugt"
  | .brgt _ => "brgt"
  | .movkr _ _ => "movkr"
  | .cmpkr _ _ => "cmpkr"
  | .addkr _ _ => "addkr"
  | .subkr _ _ => "subkr"
  | .andkr _ _ => "andkr"
  | .orkr _ _ => "orkr"
  | .xorkr _ _ => "xorkr"
  | .mov16mr _ _ _ => "mov16mr"
  | .movs8mr _ _ _ => "movs8mr"
  | .mov16rm _ _ _ => "mov16rm"
  | .mov8rm _ _ _ => "mov8rm"
  | .addrrr _ _ _ => "addrrr"
  | .adcrrr _ _ _ => "adcrrr"
  | .subrrr _ _ _ => "subrrr"
  | .subcrrr _ _ _ => "subcrrr"
  | .orrrr _ _ _ => "orrrr"
  | .andrrr _ _ _ => "andrrr"
  | .xorrrr _ _ _ => "xorrrr"
  | .mov16nr _ _ _ => "mov16nr"
  | .mov8znr _ _ _ => "mov8znr"
  | .mov8snr _ _ _ => "mov8snr"
  | .mov16rn _ _ _ => "mov16rn"
  | .mov8rn _ _ _ => "mov8rn"
  | .seleq _ _ _ => "seleq"
  | .selne _ _ _ => "selne"
  | .seluge _ _ _ => "seluge"
  | .selult _ _ _ => "selult"
  | .sellt _ _ _ => "sellt"
  | .selge _ _ _ => "selge"
  | .selugt _ _ _ => "selugt"
  | .selgt _ _ _ => "selgt"
  | .seteq _ _ => "seteq"
  | .setne _ _ => "setne"
  | .setuge _ _ => "setuge"
  | .setult _ _ => "setult"
  | .setlt _ _ => "setlt"
  | .setge _ _ => "setge"
  | .setugt _ _ => "setugt"
  | .setgt _ _ => "setgt"
  | .ret _ => "ret"
  | .reti _ => "reti"
  | .dint _ => "dint"
  | .eint _ => "eint"
  | .calladr _ _ => "calladr"
  | .jmpreg _ _ => "jmpreg"
  | .callreg _ _ => "callreg"
  | .push _ _ => "push"
  | .pop _ _ => "pop"
  | .movSr _ _ => "movSr"
  | .movrS _ _ => "movrS"
  | .movKr _ _ _ => "movKr"
  | .mov16ar _ _ _ => "mov16ar"
  | .mov8zar _ _ _ => "mov8zar"
  | .mov8sar _ _ _ => "mov8sar"
  | .mov16ra _ _ _ => "mov16ra"
  | .mov8ra _ _ _ => "mov8ra"
  | .movrr _ _ => "movrr"
  | .cmprr _ _ => "cmprr"
  | .zext _ _ => "zext"
  | .sext _ _ => "sext"
  | .bswap _ _ => "bswap"
  | .sextw _ _ => "sextw"
  | .mov16pr _ _ => "mov16pr"
  | .lsr _ _ => "lsr"
  | .lsl _ _ => "lsl"
  | .asr _ _ => "asr"
  | .neg _ _ => "neg"
  | .notrr _ _ => "not"
  | .movMr _ _ _ => "movMr"
  | .mov16Mr _ _ _ => "mov16Mr"
  | .mov8zMr _ _ _ => "mov8zMr"
  | .mov8sMr _ _ _ => "mov8sMr"
  | .mov16rM _ _ _ => "mov16rM"
  | .mov8rM _ _ _ => "mov8rM"
  | .reservedT3_111 _ _ => "reserved.T3.111"
  | .reservedT5_0111 _ _ _ => "reserved.T5.0111"
  | .reservedT5_1000 _ _ _ => "reserved.T5.1000"
  | .reservedT5_1110 _ _ _ => "reserved.T5.1110"
  | .reservedT5_1111 _ _ _ => "reserved.T5.1111"
  | .reservedT8_100 _ => "reserved.T8.100"
  | .reservedT8_101 _ => "reserved.T8.101"
  | .reservedT8_110 _ => "reserved.T8.110"
  | .reservedT9_100_0 _ _ => "reserved.T9.100_0"
  | .reservedT9_101_0 _ _ => "reserved.T9.101_0"
  | .reservedT9_110_1 _ _ => "reserved.T9.110_1"
  | .reservedT9_111_1 _ _ => "reserved.T9.111_1"
  | .reservedT10_110_00 _ _ => "reserved.T10.110_00"
  | .reservedT10_011_01 _ _ => "reserved.T10.011_01"
  | .reservedT10_100_01 _ _ => "reserved.T10.100_01"
  | .reservedT10_111_01 _ _ => "reserved.T10.111_01"
  | .reservedT10_110_10 _ _ => "reserved.T10.110_10"
  | .reservedT10_111_10 _ _ => "reserved.T10.111_10"
  | .reservedT10_xxx_11 _ _ _ => "reserved.T10.xxx_11"

end Sys2Proof
end

