-- ==== Sys2Proof/Machine/State.lean ====
section
/-! DEFINITION. The machine's state, the reasons a step can stop, and the state after reset, for any
configuration and launch state. -/

namespace Sys2Proof.Machine

/-- The general registers and the stack pointer, 16 bits each (10_state.md R20, R21, R22). -/
structure Regs where
  r0 : Word
  r1 : Word
  r2 : Word
  r3 : Word
  r4 : Word
  r5 : Word
  r6 : Word
  sp : Word
deriving DecidableEq, Repr

/-- The status register SRAR: seven one-bit fields (10_state.md R20, R25). I: interrupts enabled;
V, S, C, Z: the compare flags, together SR; AC, AZ: the arithmetic flags, together AR. -/
structure Flags where
  i : Bool
  v : Bool
  s : Bool
  c : Bool
  z : Bool
  ac : Bool
  az : Bool
deriving DecidableEq, Repr

/-- A read of state that holds no value (60_exceptions.md R231 X5, 70_reset_and_hazards.md R252). -/
inductive Fault where
  /-- Raised by a load, `pop` or `ret` that reads a data-memory byte nothing has written and the
  host did not define (R252). Safe: the model stops where hardware reads some bit pattern. -/
  | dataByteNoValue
  /-- Raised by an instruction fetch, a second-word fetch or `ld {Rs}, Rd` at a program word outside
  the loaded image (R252, R206). Safe: the model stops where hardware reads some bit pattern. -/
  | programWordNoValue
deriving DecidableEq, Repr

/-- The model gives the instruction no meaning (60_exceptions.md R231; 00_scope.md R8 `refuse`). -/
inductive Refusal where
  /-- Raised by no meaning: it marks an instruction whose arm of `exec` is not written. Safe. -/
  | notModelled (mnemonic : String)
  /-- X1, raised by every reserved encoding (30_encoding.md R100). Safe: the model stops. -/
  | reservedEncoding
  /-- X2, raised by a word access at an odd address when `MISALIGNED_WORD = refuse`
  (20_memory.md R53). Safe: the model stops. -/
  | misalignedWord
  /-- X3, raised by `push sp` (47_single_register_word_immediate.md R182). Safe: the model stops. -/
  | pushSpNotSpecified
  /-- X3, raised by `pop sp` (47_single_register_word_immediate.md R183). Safe: the model stops. -/
  | popSpNotSpecified
  /-- X4, raised by `reti` when `IRQ_MODEL = none` (46_zero_operand_call_absolute.md R172). Safe:
  the model stops. -/
  | retiNotSpecified
  /-- X7, raised by an access or a fetch at or above a memory size configured below 65536
  (20_memory.md R55). Safe: the model stops. -/
  | addressOutsideMemory
  /-- X8, raised by a word with an x bit set when `STRICT_X = true` (30_encoding.md R101). Safe:
  the model stops. -/
  | nonzeroXBits
deriving DecidableEq, Repr

/-- Everything the machine holds. `cfg` is the record of 00_scope.md R5's parameters, which no step
changes; `draws` and `irqOffers` are the model's own (assumption log 6 and 18): the index of the
next free bit, and the environment of the run: whether it offers an interrupt request at this
instruction boundary and at the ones to come, none after the list's end (60_exceptions.md R236, R237).
Every step passes one boundary, under either `IRQ_MODEL`. -/
structure State where
  cfg : Config
  regs : Regs
  pc : Word
  flags : Flags
  dmem : List Host.Cell
  pmem : List (Nat × Word)
  draws : Nat
  irqOffers : List Bool
deriving DecidableEq, Repr

/-- The machine right after reset, for any values of the parameters, with the program image and the
data bytes that the host defines before the first step, each a memory in canonical form, and with the
interrupt requests that the environment will offer (10_state.md R36, 70_reset_and_hazards.md R250,
R251, R255, 60_exceptions.md R236; assumption log 18): `pc` is `RESET_PC`, I is 0, and a program word
or data byte outside what the host defined holds no value. The spec gives the registers and the other
six flags no value: they are 0 here (assumption log 2 and 3). -/
def State.launch (cfg : Config) (image : List (Nat × Word)) (data : List Host.Cell)
    (offers : List Bool) : State :=
  { cfg := cfg
    regs := { r0 := 0, r1 := 0, r2 := 0, r3 := 0, r4 := 0, r5 := 0, r6 := 0, sp := 0 }
    pc := cfg.resetPc
    flags := { i := false, v := false, s := false, c := false, z := false, ac := false, az := false }
    dmem := data
    pmem := image
    draws := 0
    irqOffers := offers }

/-- The machine right after reset with the defaults of 00_scope.md R5, no program loaded, no data byte
defined and an environment that offers no request (assumption log 4, 5 and 18). -/
def State.reset : State := State.launch defaultConfig [] [] []

end Sys2Proof.Machine
end

