-- ==== Sys2Proof/Machine/Flags.lean ====
section
/-! DEFINITION. How the flags are computed and tested (10_state.md R25 to R31), and the word form of
SRAR. -/

namespace Sys2Proof.Machine

/-- The triple that `AddWithCarry` returns (10_state.md R26). -/
structure AddOut where
  result : Word
  carry : Bool
  overflow : Bool
deriving DecidableEq, Repr

/-- `AddWithCarry(a, b, cin)` (10_state.md R26): the exact unsigned and signed sums, narrowed. -/
def addWithCarry (a b : Word) (cin : Bool) : AddOut :=
  let usum : Nat := a.toNat + b.toNat + cin.toNat
  let result : Word := BitVec.ofNat 16 usum
  let ssum : Int := a.toInt + b.toInt + (cin.toNat : Int)
  { result := result
    carry := decide (65536 ≤ usum)
    overflow := decide (ssum ≠ result.toInt) }

/-- Subtraction as the addition of the complement; `notBorrow` is the carry in (10_state.md R26). -/
def subWithCarry (a b : Word) (notBorrow : Bool) : AddOut :=
  addWithCarry a (~~~b) notBorrow

/-- The arithmetic SR update (10_state.md R27). -/
def Flags.withArithSR (f : Flags) (o : AddOut) : Flags :=
  { f with z := o.result == 0, s := o.result.msb, c := o.carry, v := o.overflow }

/-- The AR update of `addkr`, `subkr`, `addrrr`, `subrrr` (10_state.md R29). -/
def Flags.withAR (f : Flags) (o : AddOut) : Flags :=
  { f with ac := o.carry, az := o.result == 0 }

/-- The AR update of `adcrrr` and `subcrrr`: `AZ_CHAIN` says whether the new AZ also takes in the
old one (10_state.md R30). -/
def Flags.withChainedAR (chain : Bool) (f : Flags) (o : AddOut) : Flags :=
  { f with ac := o.carry, az := (o.result == 0) && (!chain || f.az) }

/-- The part of the logical SR update that the result fixes: Z and S (10_state.md R28). -/
def Flags.withLogicZS (f : Flags) (result : Word) : Flags :=
  { f with z := result == 0, s := result.msb }

/-- `cond(cc)` on the SR flags (10_state.md R31). -/
def condHolds (cc : Cond) (f : Flags) : Bool :=
  match cc with
  | .eq => f.z
  | .ne => !f.z
  | .uge => f.c
  | .ult => !f.c
  | .lt => f.s != f.v
  | .ge => f.s == f.v
  | .ugt => f.c && !f.z
  | .gt => (f.s == f.v) && !f.z

/-- A word with one of its bits set to `b`. -/
def setBit (w : Word) (pos : Fin 16) (b : Bool) : Word :=
  if b then w ||| BitVec.twoPow 16 pos.val else w &&& ~~~(BitVec.twoPow 16 pos.val)

/-- SRAR as a word through `SRAR_LAYOUT`; the bits outside the layout are 0 (10_state.md R25, R184).
The flags are placed in the order of R184: I, V, S, C, Z, AC, AZ. -/
def packSrar (l : SrarLayout) (f : Flags) : Word :=
  let w0 := setBit 0 l.i f.i
  let w1 := setBit w0 l.v f.v
  let w2 := setBit w1 l.s f.s
  let w3 := setBit w2 l.c f.c
  let w4 := setBit w3 l.z f.z
  let w5 := setBit w4 l.ac f.ac
  setBit w5 l.az f.az

/-- The seven flags of a word through `SRAR_LAYOUT`; the other bits are ignored (R25, R185). -/
def unpackSrar (l : SrarLayout) (w : Word) : Flags :=
  { i := w.getLsbD l.i.val
    v := w.getLsbD l.v.val
    s := w.getLsbD l.s.val
    c := w.getLsbD l.c.val
    z := w.getLsbD l.z.val
    ac := w.getLsbD l.ac.val
    az := w.getLsbD l.az.val }

end Sys2Proof.Machine
end

