-- ==== Sys2Proof/Machine/Ops.lean ====
section
/-! DEFINITION. The named operations over registers, flags, the two memories and the stack, and
taking an interrupt with the return from it. An operation that can stop answers a `Host.Outcome`. -/

namespace Sys2Proof.Machine

/-- What an operation answers: a value, a fault or a refusal. -/
abbrev Res (α : Type) := Host.Outcome α Fault Refusal

/-- Go on with the value of an operation; a fault or a refusal ends the instruction, and nothing it
did is kept (60_exceptions.md R231). -/
def andThen {α β : Type} (r : Res α) (f : α → Res β) : Res β :=
  match r with
  | .next a => f a
  | .fault e => .fault e
  | .refused e => .refused e

/-- The value of an operation that did not stop. -/
def Res.value? {α : Type} (r : Res α) : Option α :=
  match r with
  | .next a => some a
  | .fault _ => none
  | .refused _ => none

/-! ### Registers, flags and the program counter -/

/-- The register of a name (10_state.md R21); none is hard-wired. -/
def Regs.get (g : Regs) (r : Reg) : Word :=
  match r with
  | .r0 => g.r0
  | .r1 => g.r1
  | .r2 => g.r2
  | .r3 => g.r3
  | .r4 => g.r4
  | .r5 => g.r5
  | .r6 => g.r6
  | .sp => g.sp

/-- The register file with one register written (10_state.md R21). -/
def Regs.set (g : Regs) (r : Reg) (v : Word) : Regs :=
  match r with
  | .r0 => { g with r0 := v }
  | .r1 => { g with r1 := v }
  | .r2 => { g with r2 := v }
  | .r3 => { g with r3 := v }
  | .r4 => { g with r4 := v }
  | .r5 => { g with r5 := v }
  | .r6 => { g with r6 := v }
  | .sp => { g with sp := v }

/-- `x[i]` (00_scope.md R8). -/
def State.get (s : State) (r : Reg) : Word := s.regs.get r

/-- `x[i] <- v` (00_scope.md R8). -/
def State.set (s : State) (r : Reg) (v : Word) : State := { s with regs := s.regs.set r v }

/-- The state with the flags written. -/
def State.setFlags (s : State) (f : Flags) : State := { s with flags := f }

/-- The state with I written (10_state.md R35). -/
def State.setI (s : State) (b : Bool) : State := { s with flags := { s.flags with i := b } }

/-- `pc <- t` (00_scope.md R8, 10_state.md R24). -/
def State.setPc (s : State) (t : Word) : State := { s with pc := t }

/-- `pc <- (pc + L) mod 65536` for an instruction of L words (10_state.md R24). -/
def State.advance (s : State) (len : Word) : State := s.setPc (s.pc + len)

/-! ### Data memory -/

/-- Whether `n` bytes from an address up lie inside data memory (20_memory.md R55). -/
def State.inData (s : State) (a : Word) (n : Nat) : Bool := decide (a.toNat + n ≤ s.cfg.dmemBytes)

/-- `MemRead(addr, 1)` (20_memory.md R51): refused outside data memory (R55), a fault where the byte
holds no value (70_reset_and_hazards.md R252). -/
def readByte (s : State) (a : Word) : Res Byte :=
  if s.inData a 1 then
    match Memory.find s.dmem a.toNat with
    | some b => .next b
    | none => .fault .dataByteNoValue
  else .refused .addressOutsideMemory

/-- `MemWrite(addr, 1, v)` (20_memory.md R52). -/
def writeByte (s : State) (a : Word) (b : Byte) : Res State :=
  if s.inData a 1 then .next { s with dmem := Memory.put s.dmem a.toNat b }
  else .refused .addressOutsideMemory

/-- Where a word access at an address is performed: at an even address there; at an odd one refused
or at the even address below, by `MISALIGNED_WORD` (20_memory.md R53). -/
def wordPlace (s : State) (a : Word) : Res Word :=
  if a.getLsbD 0 then
    match s.cfg.misaligned with
    | .refuse => .refused .misalignedWord
    | .clearBit0 => .next (a - 1)
  else .next a

/-- The word of the byte at the lower address and the byte after it, by `BYTE_ORDER` (R50, R51). -/
def joinBytes (o : ByteOrder) (lower upper : Byte) : Word :=
  match o with
  | .little => upper ++ lower
  | .big => lower ++ upper

/-- The byte of a word at the lower of its two addresses, by `BYTE_ORDER` (R50, R52). -/
def lowerByte (o : ByteOrder) (v : Word) : Byte :=
  match o with
  | .little => v.extractLsb' 0 8
  | .big => v.extractLsb' 8 8

/-- The byte of a word at the upper of its two addresses, by `BYTE_ORDER` (R50, R52). -/
def upperByte (o : ByteOrder) (v : Word) : Byte :=
  match o with
  | .little => v.extractLsb' 8 8
  | .big => v.extractLsb' 0 8

/-- `MemRead(addr, 2)` (20_memory.md R51, R53, R55): no byte is read at an odd address that is
refused; else the lower byte is read, then the upper. So a byte that holds no value is reported before
an upper byte outside data memory (60_exceptions.md R233: X5 before X7; assumption log 22). -/
def readWord (s : State) (a : Word) : Res Word :=
  andThen (wordPlace s a) fun p =>
    andThen (readByte s p) fun lower =>
      andThen (readByte s (p + 1)) fun upper =>
        .next (joinBytes s.cfg.byteOrder lower upper)

/-- `MemWrite(addr, 2, v)` (20_memory.md R52, R53, R55): both bytes, or neither. -/
def writeWord (s : State) (a : Word) (v : Word) : Res State :=
  andThen (wordPlace s a) fun p =>
    if s.inData p 2 then
      andThen (writeByte s p (lowerByte s.cfg.byteOrder v)) fun s' =>
        writeByte s' (p + 1) (upperByte s.cfg.byteOrder v)
    else .refused .addressOutsideMemory

/-! ### Program memory -/

/-- `PMemRead(addr)` (20_memory.md R56): refused outside program memory (R55), a fault where the
word holds no value (70_reset_and_hazards.md R252). -/
def readProg (s : State) (a : Word) : Res Word :=
  if a.toNat < s.cfg.pmemWords then
    match Memory.find s.pmem a.toNat with
    | some w => .next w
    | none => .fault .programWordNoValue
  else .refused .addressOutsideMemory

/-- The host places a word in program memory before the run (70_reset_and_hazards.md R255). No
instruction does this (20_memory.md R62). -/
def loadProgramWord (s : State) (a : Word) (w : Word) : State :=
  { s with pmem := Memory.put s.pmem a.toNat w }

/-! ### The stack -/

/-- `PushWord(v)` (40_relative_jump_call_branch.md R113). -/
def pushWord (s : State) (v : Word) : Res State :=
  let a := s.get .sp - 2
  andThen (writeWord s a v) fun s' => .next (s'.set .sp a)

/-- `PopWord()` (40_relative_jump_call_branch.md R113): the word, and the state after it. -/
def popWord (s : State) : Res (Word × State) :=
  andThen (readWord s (s.get .sp)) fun v => .next (v, s.set .sp (s.get .sp + 2))

/-! ### Taking an interrupt and returning from it (60_exceptions.md R236, R237) -/

/-- Whether the next transition is an interrupt entry: candidate_A, I = 1 and the environment offers
a request at this instruction boundary (R237). Under `IRQ_MODEL = none` it never is (R236). -/
def interruptDue (s : State) : Option Word :=
  match s.cfg.irqModel, s.irqOffers with
  | .candidateA vector, true :: _ => if s.flags.i then some vector else none
  | _, _ => none

/-- The environment after this instruction boundary, the same under either `IRQ_MODEL`. A boundary
without an offer is passed; a request offered while I = 0 "is held by the environment" (R237) and stays
the next one; one offered while I = 1 is behind: candidate_A takes it, and under `IRQ_MODEL = none` it
breaks the premise NoInterrupt of R236. That a request is held under `IRQ_MODEL = none` too is a
DESIGN CHOICE, on which no effect on the machine depends (assumption log 18). -/
def passOffer (s : State) : State :=
  match s.irqOffers with
  | [] => s
  | true :: rest => if s.flags.i then { s with irqOffers := rest } else s
  | false :: rest => { s with irqOffers := rest }

/-- Interrupt entry of candidate_A (R237): the address of the instruction not yet executed and then
SRAR are pushed, I is cleared, and `pc` becomes `IRQ_VECTOR`. -/
def interruptEntry (vector : Word) (s : State) : Res State :=
  andThen (pushWord s s.pc) fun s1 =>
    andThen (pushWord s1 (packSrar s.cfg.srarLayout s.flags)) fun s2 =>
      .next ((s2.setI false).setPc vector)

/-- The return from an interrupt of candidate_A (R237, R172): SRAR and then `pc` are popped. -/
def interruptReturn (s : State) : Res State :=
  andThen (popWord s) fun (w, s1) =>
    andThen (popWord (s1.setFlags (unpackSrar s.cfg.srarLayout w))) fun (t, s2) =>
      .next (s2.setPc t)

end Sys2Proof.Machine
end

