-- ==== Sys2Proof/Machine/Operands.lean ====
section
/-! DEFINITION. The operand forms: extensions, PC-relative targets, the T4 offset, the effective
addresses, and the shared shapes of the instructions over them. -/

namespace Sys2Proof.Machine

/-! ### Extensions (00_scope.md R8) -/

/-- `sext_8`. -/
def sext8 (b : BitVec 8) : Word := b.signExtend 16

/-- `zext_8`. -/
def zext8 (b : BitVec 8) : Word := b.setWidth 16

/-- `sext_12`, of the offset of T1. -/
def sext12 (a : BitVec 12) : Word := a.signExtend 16

/-- `sext_10`, of the offset of T2. -/
def sext10 (a : BitVec 10) : Word := a.signExtend 16

/-- Bits 7:0 of a word. -/
def lowByte (w : Word) : Byte := w.extractLsb' 0 8

/-- Bits 15:8 of a word. -/
def highByte (w : Word) : Byte := w.extractLsb' 8 8

/-! ### Program addresses -/

/-- The target of a PC-relative offset, by `REL_BASE` (30_encoding.md R90). -/
def relTarget (s : State) (offset : Word) : Word :=
  match s.cfg.relBase with
  | .next => s.pc + 1 + offset
  | .self => s.pc + offset

/-! ### Data addresses -/

/-- The offset K in -16..47 that a 6-bit field of T4 means, by `T4_K_DECODE` (30_encoding.md R92). -/
def t4Offset (d : T4Decode) (f : BitVec 6) : Int :=
  match d with
  | .signfill => if f.toNat < 48 then f.toNat else (f.toNat : Int) - 64
  | .excess16 => (f.toNat : Int) - 16
  | .signedPlus16 => f.toInt + 16

/-- The effective address of T4: `(x[Rs] + K4(k)) mod 65536` (42_loadstore_imm_offset.md R134). -/
def eaImm (s : State) (rs : Reg) (k : BitVec 6) : Word :=
  s.get rs + BitVec.ofInt 16 (t4Offset s.cfg.t4Decode k)

/-- The effective address of T5: `(x[Rn] + x[Rs]) mod 65536` (44_loadstore_reg_offset.md R155). -/
def eaReg (s : State) (rn rs : Reg) : Word := s.get rn + s.get rs

/-- The effective address of T10: `(x[Rs] + imm16) mod 65536` (49_loadstore_word_offset.md R226). -/
def eaWord (s : State) (rs : Reg) (k : Word) : Word := s.get rs + k

/-! ### Shared shapes: the state after an instruction of `len` words -/

/-- The register gets the value; no flag is written (10_state.md R34). -/
def writeReg (s : State) (rd : Reg) (v : Word) (len : Word) : Res State :=
  .next ((s.set rd v).advance len)

/-- `ld.w` (20_memory.md R57). -/
def loadWord (s : State) (a : Word) (rd : Reg) (len : Word) : Res State :=
  andThen (readWord s a) fun v => writeReg s rd v len

/-- `ld.zb` (20_memory.md R57). -/
def loadByteZero (s : State) (a : Word) (rd : Reg) (len : Word) : Res State :=
  andThen (readByte s a) fun b => writeReg s rd (zext8 b) len

/-- `ld.sb` (20_memory.md R57). -/
def loadByteSign (s : State) (a : Word) (rd : Reg) (len : Word) : Res State :=
  andThen (readByte s a) fun b => writeReg s rd (sext8 b) len

/-- `st.w` (20_memory.md R57): all 16 bits of Rd. -/
def storeWord (s : State) (a : Word) (rd : Reg) (len : Word) : Res State :=
  andThen (writeWord s a (s.get rd)) fun s' => .next (s'.advance len)

/-- `st.b` (20_memory.md R57): bits 7:0 of Rd. -/
def storeByte (s : State) (a : Word) (rd : Reg) (len : Word) : Res State :=
  andThen (writeByte s a (lowByte (s.get rd))) fun s' => .next (s'.advance len)

/-- A compare: SR from the difference, no register (10_state.md R27). -/
def compareOp (s : State) (left right : Word) : Res State :=
  .next ((s.setFlags (s.flags.withArithSR (subWithCarry left right true))).advance 1)

/-- An addition or a subtraction that updates SR and AR (10_state.md R27, R29). -/
def arithOp (s : State) (rd : Reg) (o : AddOut) : Res State :=
  .next (((s.set rd o.result).setFlags ((s.flags.withArithSR o).withAR o)).advance 1)

/-- One that takes AC in: AZ follows `AZ_CHAIN` (10_state.md R27, R29, R30). -/
def arithChainedOp (s : State) (rd : Reg) (o : AddOut) : Res State :=
  .next (((s.set rd o.result).setFlags
    ((s.flags.withArithSR o).withChainedAR s.cfg.azChain o)).advance 1)

/-- The logical SR update (10_state.md R28): Z and S from the result, C and V by `LOGIC_CV`. Each
draw is a free bit of its own. -/
def logicFlags (s : State) (result : Word) : State :=
  let f := s.flags.withLogicZS result
  match s.cfg.logicCV with
  | .draw =>
    { s with
      flags := { f with c := Config.freeBit s.draws, v := Config.freeBit (s.draws + 1) }
      draws := s.draws + 2 }
  | .unchanged => { s with flags := f }
  | .cleared => { s with flags := { f with c := false, v := false } }

/-- An instruction that writes a bitwise or negated result and updates SR (10_state.md R28). -/
def logicOp (s : State) (rd : Reg) (result : Word) : Res State :=
  .next (((logicFlags s result).set rd result).advance 1)

/-- `br%cc` (40_relative_jump_call_branch.md R112). -/
def branchOp (cc : Cond) (a : BitVec 10) (s : State) : Res State :=
  if condHolds cc s.flags then .next (s.setPc (relTarget s (sext10 a))) else .next (s.advance 1)

/-- `sel%cc` (45_select_set.md R160). -/
def selectOp (cc : Cond) (rn rs rd : Reg) (s : State) : Res State :=
  writeReg s rd (if condHolds cc s.flags then s.get rn else s.get rs) 1

/-- `set%cc` (45_select_set.md R161). -/
def setOp (cc : Cond) (rd : Reg) (s : State) : Res State :=
  writeReg s rd (if condHolds cc s.flags then 0x0001 else 0x0000) 1

/-- A call of `len` words: the address of the next instruction is pushed, `pc` becomes the target
(R111, R171, R181). The target is read before SP changes (00_scope.md R9). -/
def callOp (s : State) (target : Word) (len : Word) : Res State :=
  andThen (pushWord s (s.pc + len)) fun s' => .next (s'.setPc target)

/-- A reserved encoding: refused, never run as a NOP (30_encoding.md R100). -/
def refuseReserved : Res State := .refused .reservedEncoding

end Sys2Proof.Machine
end

