-- ==== Sys2Proof/Machine/AbsoluteAddress.lean ====
section
/-! DEFINITION. Word immediate and absolute addressing (T9, two words):
47_single_register_word_immediate.md. The second word is the last operand (30_encoding.md R96). -/

namespace Sys2Proof.Machine

/-- `mov #K, Rd` (R190). -/
def execMovKr (rd : Reg) (k : Word) (s : State) : Host.Outcome State Fault Refusal :=
  writeReg s rd k 2

/-- `ld.w [&A], Rd` (R191). -/
def execMov16ar (rd : Reg) (a : Word) (s : State) : Host.Outcome State Fault Refusal :=
  loadWord s a rd 2

/-- `ld.zb [&A], Rd` (R192). -/
def execMov8zar (rd : Reg) (a : Word) (s : State) : Host.Outcome State Fault Refusal :=
  loadByteZero s a rd 2

/-- `ld.sb [&A], Rd` (R193). -/
def execMov8sar (rd : Reg) (a : Word) (s : State) : Host.Outcome State Fault Refusal :=
  loadByteSign s a rd 2

/-- `st.w Rd, [&A]` (R194). -/
def execMov16ra (rd : Reg) (a : Word) (s : State) : Host.Outcome State Fault Refusal :=
  storeWord s a rd 2

/-- `st.b Rd, [&A]` (R195). -/
def execMov8ra (rd : Reg) (a : Word) (s : State) : Host.Outcome State Fault Refusal :=
  storeByte s a rd 2

end Sys2Proof.Machine
end

