-- ==== Sys2Proof/Machine/AluImmediate.lean ====
section
/-! DEFINITION. Move, compare and ALU with an 8-bit immediate (T3): 41_alu_immediate.md. -/

namespace Sys2Proof.Machine

/-- `mov K, Rd` (R120). -/
def execMovkr (k : BitVec 8) (rd : Reg) (s : State) : Host.Outcome State Fault Refusal :=
  writeReg s rd (sext8 k) 1

/-- `cmp Rd, K` (R121): the flags of `x[Rd] - sext_8(k)`. -/
def execCmpkr (k : BitVec 8) (rd : Reg) (s : State) : Host.Outcome State Fault Refusal :=
  compareOp s (s.get rd) (sext8 k)

/-- `add Rd, K, Rd` (R122). -/
def execAddkr (k : BitVec 8) (rd : Reg) (s : State) : Host.Outcome State Fault Refusal :=
  arithOp s rd (addWithCarry (s.get rd) (zext8 k) false)

/-- `sub Rd, K, Rd` (R123). -/
def execSubkr (k : BitVec 8) (rd : Reg) (s : State) : Host.Outcome State Fault Refusal :=
  arithOp s rd (subWithCarry (s.get rd) (zext8 k) true)

/-- `and Rd, K, Rd` (R124). -/
def execAndkr (k : BitVec 8) (rd : Reg) (s : State) : Host.Outcome State Fault Refusal :=
  logicOp s rd (s.get rd &&& zext8 k)

/-- `or Rd, K, Rd` (R125). -/
def execOrkr (k : BitVec 8) (rd : Reg) (s : State) : Host.Outcome State Fault Refusal :=
  logicOp s rd (s.get rd ||| zext8 k)

/-- `xor Rd, K, Rd` (R126). -/
def execXorkr (k : BitVec 8) (rd : Reg) (s : State) : Host.Outcome State Fault Refusal :=
  logicOp s rd (s.get rd ^^^ zext8 k)

end Sys2Proof.Machine
end

