-- ==== Sys2Proof/Machine/AluRegister.lean ====
section
/-! DEFINITION. Three-register ALU operations (T5): 43_three_register_alu.md. -/

namespace Sys2Proof.Machine

/-- `add Rn, Rs, Rd` (R140). -/
def execAddrrr (rn rs rd : Reg) (s : State) : Host.Outcome State Fault Refusal :=
  arithOp s rd (addWithCarry (s.get rn) (s.get rs) false)

/-- `addc Rn, Rs, Rd` (R141): the old AC is the carry in. -/
def execAdcrrr (rn rs rd : Reg) (s : State) : Host.Outcome State Fault Refusal :=
  arithChainedOp s rd (addWithCarry (s.get rn) (s.get rs) s.flags.ac)

/-- `sub Rn, Rs, Rd` (R142). -/
def execSubrrr (rn rs rd : Reg) (s : State) : Host.Outcome State Fault Refusal :=
  arithOp s rd (subWithCarry (s.get rn) (s.get rs) true)

/-- `subc Rn, Rs, Rd` (R143): the old AC says that nothing is to borrow. -/
def execSubcrrr (rn rs rd : Reg) (s : State) : Host.Outcome State Fault Refusal :=
  arithChainedOp s rd (subWithCarry (s.get rn) (s.get rs) s.flags.ac)

/-- `or Rn, Rs, Rd` (R144). -/
def execOrrrr (rn rs rd : Reg) (s : State) : Host.Outcome State Fault Refusal :=
  logicOp s rd (s.get rn ||| s.get rs)

/-- `and Rn, Rs, Rd` (R145). -/
def execAndrrr (rn rs rd : Reg) (s : State) : Host.Outcome State Fault Refusal :=
  logicOp s rd (s.get rn &&& s.get rs)

/-- `xor Rn, Rs, Rd` (R146). -/
def execXorrrr (rn rs rd : Reg) (s : State) : Host.Outcome State Fault Refusal :=
  logicOp s rd (s.get rn ^^^ s.get rs)

end Sys2Proof.Machine
end

