-- ==== Sys2Proof/Machine/LoadStoreImm.lean ====
section
/-! DEFINITION. Load and store with a 6-bit immediate offset (T4): 42_loadstore_imm_offset.md. -/

namespace Sys2Proof.Machine

/-- `ld.w [Rs, K], Rd` (R130). -/
def execMov16mr (k : BitVec 6) (rs rd : Reg) (s : State) : Host.Outcome State Fault Refusal :=
  loadWord s (eaImm s rs k) rd 1

/-- `ld.sb [Rs, K], Rd` (R131). -/
def execMovs8mr (k : BitVec 6) (rs rd : Reg) (s : State) : Host.Outcome State Fault Refusal :=
  loadByteSign s (eaImm s rs k) rd 1

/-- `st.w Rd, [Rs, K]` (R132). -/
def execMov16rm (k : BitVec 6) (rs rd : Reg) (s : State) : Host.Outcome State Fault Refusal :=
  storeWord s (eaImm s rs k) rd 1

/-- `st.b Rd, [Rs, K]` (R133). -/
def execMov8rm (k : BitVec 6) (rs rd : Reg) (s : State) : Host.Outcome State Fault Refusal :=
  storeByte s (eaImm s rs k) rd 1

end Sys2Proof.Machine
end

