-- ==== Sys2Proof/Machine/LoadStoreReg.lean ====
section
/-! DEFINITION. Load and store with a register offset (T5): 44_loadstore_reg_offset.md. -/

namespace Sys2Proof.Machine

/-- `ld.w [Rn, Rs], Rd` (R150). -/
def execMov16nr (rn rs rd : Reg) (s : State) : Host.Outcome State Fault Refusal :=
  loadWord s (eaReg s rn rs) rd 1

/-- `ld.zb [Rn, Rs], Rd` (R151). -/
def execMov8znr (rn rs rd : Reg) (s : State) : Host.Outcome State Fault Refusal :=
  loadByteZero s (eaReg s rn rs) rd 1

/-- `ld.sb [Rn, Rs], Rd` (R152). -/
def execMov8snr (rn rs rd : Reg) (s : State) : Host.Outcome State Fault Refusal :=
  loadByteSign s (eaReg s rn rs) rd 1

/-- `st.w Rd, [Rn, Rs]` (R153). -/
def execMov16rn (rn rs rd : Reg) (s : State) : Host.Outcome State Fault Refusal :=
  storeWord s (eaReg s rn rs) rd 1

/-- `st.b Rd, [Rn, Rs]` (R154). -/
def execMov8rn (rn rs rd : Reg) (s : State) : Host.Outcome State Fault Refusal :=
  storeByte s (eaReg s rn rs) rd 1

end Sys2Proof.Machine
end

