-- ==== Sys2Proof/Machine/LoadStoreWordOffset.lean ====
section
/-! DEFINITION. Add word immediate, load and store with a word offset (T10, op2 10):
49_loadstore_word_offset.md. The second word is the last operand (30_encoding.md R96). -/

namespace Sys2Proof.Machine

/-- `add Rs, #K, Rd` (R220): the address itself; no memory access, no flag. -/
def execMovMr (rs rd : Reg) (k : Word) (s : State) : Host.Outcome State Fault Refusal :=
  writeReg s rd (eaWord s rs k) 2

/-- `ld.w [Rs, #K], Rd` (R221). -/
def execMov16Mr (rs rd : Reg) (k : Word) (s : State) : Host.Outcome State Fault Refusal :=
  loadWord s (eaWord s rs k) rd 2

/-- `ld.zb [Rs, #K], Rd` (R222). -/
def execMov8zMr (rs rd : Reg) (k : Word) (s : State) : Host.Outcome State Fault Refusal :=
  loadByteZero s (eaWord s rs k) rd 2

/-- `ld.sb [Rs, #K], Rd` (R223). -/
def execMov8sMr (rs rd : Reg) (k : Word) (s : State) : Host.Outcome State Fault Refusal :=
  loadByteSign s (eaWord s rs k) rd 2

/-- `st.w Rd, [Rs, #K]` (R224). -/
def execMov16rM (rs rd : Reg) (k : Word) (s : State) : Host.Outcome State Fault Refusal :=
  storeWord s (eaWord s rs k) rd 2

/-- `st.b Rd, [Rs, #K]` (R225). -/
def execMov8rM (rs rd : Reg) (k : Word) (s : State) : Host.Outcome State Fault Refusal :=
  storeByte s (eaWord s rs k) rd 2

end Sys2Proof.Machine
end

