-- ==== Sys2Proof/Machine/RelativeJump.lean ====
section
/-! DEFINITION. Relative jump and call (T1), conditional branch (T2): 40_relative_jump_call_branch.md. -/

namespace Sys2Proof.Machine

/-- `jmp Label` (R110). -/
def execJmprel (a : BitVec 12) (s : State) : Host.Outcome State Fault Refusal :=
  .next (s.setPc (relTarget s (sext12 a)))

/-- `call Label` (R111). -/
def execCallrel (a : BitVec 12) (s : State) : Host.Outcome State Fault Refusal :=
  callOp s (relTarget s (sext12 a)) 1

/-- `breq Label` (R112). -/
def execBreq (a : BitVec 10) (s : State) : Host.Outcome State Fault Refusal :=
  branchOp .eq a s

/-- `brne Label` (R112). -/
def execBrne (a : BitVec 10) (s : State) : Host.Outcome State Fault Refusal :=
  branchOp .ne a s

/-- `bruge Label` (R112). -/
def execBruge (a : BitVec 10) (s : State) : Host.Outcome State Fault Refusal :=
  branchOp .uge a s

/-- `brult Label` (R112). -/
def execBrult (a : BitVec 10) (s : State) : Host.Outcome State Fault Refusal :=
  branchOp .ult a s

/-- `brlt Label` (R112). -/
def execBrlt (a : BitVec 10) (s : State) : Host.Outcome State Fault Refusal :=
  branchOp .lt a s

/-- `brge Label` (R112). -/
def execBrge (a : BitVec 10) (s : State) : Host.Outcome State Fault Refusal :=
  branchOp .ge a s

/-- `brugt Label` (R112). -/
def execBrugt (a : BitVec 10) (s : State) : Host.Outcome State Fault Refusal :=
  branchOp .ugt a s

/-- `brgt Label` (R112). -/
def execBrgt (a : BitVec 10) (s : State) : Host.Outcome State Fault Refusal :=
  branchOp .gt a s

end Sys2Proof.Machine
end

