-- ==== Sys2Proof/Machine/Reserved.lean ====
section
/-! DEFINITION. The reserved encodings, one meaning each (30_encoding.md R100): the model gives them none. -/

namespace Sys2Proof.Machine

/-- The reserved encoding 10111kkkkkkkkddd (R100). -/
def execReservedT3_111 (_s : State) : Host.Outcome State Fault Refusal :=
  refuseReserved

/-- The reserved encoding 0010111nnnsssddd (R100). -/
def execReservedT5_0111 (_s : State) : Host.Outcome State Fault Refusal :=
  refuseReserved

/-- The reserved encoding 0011000nnnsssddd (R100). -/
def execReservedT5_1000 (_s : State) : Host.Outcome State Fault Refusal :=
  refuseReserved

/-- The reserved encoding 0011110nnnsssddd (R100). -/
def execReservedT5_1110 (_s : State) : Host.Outcome State Fault Refusal :=
  refuseReserved

/-- The reserved encoding 0011111nnnsssddd (R100). -/
def execReservedT5_1111 (_s : State) : Host.Outcome State Fault Refusal :=
  refuseReserved

/-- The reserved encoding 0001000110xxxxxx (R100). -/
def execReservedT8_100 (_s : State) : Host.Outcome State Fault Refusal :=
  refuseReserved

/-- The reserved encoding 0001010110xxxxxx (R100). -/
def execReservedT8_101 (_s : State) : Host.Outcome State Fault Refusal :=
  refuseReserved

/-- The reserved encoding 0001100110xxxxxx (R100). -/
def execReservedT8_110 (_s : State) : Host.Outcome State Fault Refusal :=
  refuseReserved

/-- The reserved encoding 0001000100xxxddd (R100). -/
def execReservedT9_100_0 (_s : State) : Host.Outcome State Fault Refusal :=
  refuseReserved

/-- The reserved encoding 0001010100xxxddd (R100). -/
def execReservedT9_101_0 (_s : State) : Host.Outcome State Fault Refusal :=
  refuseReserved

/-- The reserved encoding 0001100101xxxddd (R100). -/
def execReservedT9_110_1 (_s : State) : Host.Outcome State Fault Refusal :=
  refuseReserved

/-- The reserved encoding 0001110101xxxddd (R100). -/
def execReservedT9_111_1 (_s : State) : Host.Outcome State Fault Refusal :=
  refuseReserved

/-- The reserved encoding 0001100000sssddd (R100). -/
def execReservedT10_110_00 (_s : State) : Host.Outcome State Fault Refusal :=
  refuseReserved

/-- The reserved encoding 0000110001sssddd (R100). -/
def execReservedT10_011_01 (_s : State) : Host.Outcome State Fault Refusal :=
  refuseReserved

/-- The reserved encoding 0001000001sssddd (R100). -/
def execReservedT10_100_01 (_s : State) : Host.Outcome State Fault Refusal :=
  refuseReserved

/-- The reserved encoding 0001110001sssddd (R100). -/
def execReservedT10_111_01 (_s : State) : Host.Outcome State Fault Refusal :=
  refuseReserved

/-- The reserved encoding 0001100010sssddd (R100). -/
def execReservedT10_110_10 (_s : State) : Host.Outcome State Fault Refusal :=
  refuseReserved

/-- The reserved encoding 0001110010sssddd (R100). -/
def execReservedT10_111_10 (_s : State) : Host.Outcome State Fault Refusal :=
  refuseReserved

/-- The reserved encoding 000ooo0011sssddd (R100). -/
def execReservedT10_xxx_11 (_s : State) : Host.Outcome State Fault Refusal :=
  refuseReserved

end Sys2Proof.Machine
end

