-- ==== Sys2Proof/Machine/SelectSet.lean ====
section
/-! DEFINITION. Conditional select (T6) and conditional set (T7): 45_select_set.md. -/

namespace Sys2Proof.Machine

/-- `seleq Rn, Rs, Rd` (R160). -/
def execSeleq (rn rs rd : Reg) (s : State) : Host.Outcome State Fault Refusal :=
  selectOp .eq rn rs rd s

/-- `selne Rn, Rs, Rd` (R160). -/
def execSelne (rn rs rd : Reg) (s : State) : Host.Outcome State Fault Refusal :=
  selectOp .ne rn rs rd s

/-- `seluge Rn, Rs, Rd` (R160). -/
def execSeluge (rn rs rd : Reg) (s : State) : Host.Outcome State Fault Refusal :=
  selectOp .uge rn rs rd s

/-- `selult Rn, Rs, Rd` (R160). -/
def execSelult (rn rs rd : Reg) (s : State) : Host.Outcome State Fault Refusal :=
  selectOp .ult rn rs rd s

/-- `sellt Rn, Rs, Rd` (R160). -/
def execSellt (rn rs rd : Reg) (s : State) : Host.Outcome State Fault Refusal :=
  selectOp .lt rn rs rd s

/-- `selge Rn, Rs, Rd` (R160). -/
def execSelge (rn rs rd : Reg) (s : State) : Host.Outcome State Fault Refusal :=
  selectOp .ge rn rs rd s

/-- `selugt Rn, Rs, Rd` (R160). -/
def execSelugt (rn rs rd : Reg) (s : State) : Host.Outcome State Fault Refusal :=
  selectOp .ugt rn rs rd s

/-- `selgt Rn, Rs, Rd` (R160). -/
def execSelgt (rn rs rd : Reg) (s : State) : Host.Outcome State Fault Refusal :=
  selectOp .gt rn rs rd s

/-- `seteq Rd` (R161). -/
def execSeteq (rd : Reg) (s : State) : Host.Outcome State Fault Refusal :=
  setOp .eq rd s

/-- `setne Rd` (R161). -/
def execSetne (rd : Reg) (s : State) : Host.Outcome State Fault Refusal :=
  setOp .ne rd s

/-- `setuge Rd` (R161). -/
def execSetuge (rd : Reg) (s : State) : Host.Outcome State Fault Refusal :=
  setOp .uge rd s

/-- `setult Rd` (R161). -/
def execSetult (rd : Reg) (s : State) : Host.Outcome State Fault Refusal :=
  setOp .ult rd s

/-- `setlt Rd` (R161). -/
def execSetlt (rd : Reg) (s : State) : Host.Outcome State Fault Refusal :=
  setOp .lt rd s

/-- `setge Rd` (R161). -/
def execSetge (rd : Reg) (s : State) : Host.Outcome State Fault Refusal :=
  setOp .ge rd s

/-- `setugt Rd` (R161). -/
def execSetugt (rd : Reg) (s : State) : Host.Outcome State Fault Refusal :=
  setOp .ugt rd s

/-- `setgt Rd` (R161). -/
def execSetgt (rd : Reg) (s : State) : Host.Outcome State Fault Refusal :=
  setOp .gt rd s

end Sys2Proof.Machine
end

