-- ==== Sys2Proof/Machine/SingleRegister.lean ====
section
/-! DEFINITION. Single-register instructions (T9, one word): 47_single_register_word_immediate.md. -/

namespace Sys2Proof.Machine

/-- `jmp Rd` (R180). -/
def execJmpreg (rd : Reg) (s : State) : Host.Outcome State Fault Refusal :=
  .next (s.setPc (s.get rd))

/-- `call Rd` (R181): `call sp` goes to the value SP had before the push. -/
def execCallreg (rd : Reg) (s : State) : Host.Outcome State Fault Refusal :=
  callOp s (s.get rd) 1

/-- `push Rd` (R182); `push sp` is refused. -/
def execPush (rd : Reg) (s : State) : Host.Outcome State Fault Refusal :=
  if rd = .sp then .refused .pushSpNotSpecified
  else andThen (pushWord s (s.get rd)) fun s' => .next (s'.advance 1)

/-- `pop Rd` (R183); `pop sp` is refused. -/
def execPop (rd : Reg) (s : State) : Host.Outcome State Fault Refusal :=
  if rd = .sp then .refused .popSpNotSpecified
  else andThen (popWord s) fun (v, s') => .next ((s'.set rd v).advance 1)

/-- `mov SRAR, Rd` (R184). -/
def execMovSr (rd : Reg) (s : State) : Host.Outcome State Fault Refusal :=
  writeReg s rd (packSrar s.cfg.srarLayout s.flags) 1

/-- `mov Rd, SRAR` (R185): all seven flags, I among them. -/
def execMovrS (rd : Reg) (s : State) : Host.Outcome State Fault Refusal :=
  .next ((s.setFlags (unpackSrar s.cfg.srarLayout (s.get rd))).advance 1)

end Sys2Proof.Machine
end

