-- ==== Sys2Proof/Machine/TwoRegister.lean ====
section
/-! DEFINITION. Two-register move, compare and ALU operations (T10, op2 00 and 01): 48_two_register.md. -/

namespace Sys2Proof.Machine

/-- `mov Rs, Rd` (R200). The word 0x0000 is `mov r0, r0`, the NOP (30_encoding.md R97). -/
def execMovrr (rs rd : Reg) (s : State) : Host.Outcome State Fault Refusal :=
  writeReg s rd (s.get rs) 1

/-- `cmp Rs, Rd` (R201): `CMPRR_LEFT` says which operand is the minuend. -/
def execCmprr (rs rd : Reg) (s : State) : Host.Outcome State Fault Refusal :=
  match s.cfg.cmprrLeft with
  | .rd => compareOp s (s.get rd) (s.get rs)
  | .rs => compareOp s (s.get rs) (s.get rd)

/-- `zext Rs, Rd` (R202). -/
def execZext (rs rd : Reg) (s : State) : Host.Outcome State Fault Refusal :=
  writeReg s rd (zext8 (lowByte (s.get rs))) 1

/-- `sext Rs, Rd` (R203). -/
def execSext (rs rd : Reg) (s : State) : Host.Outcome State Fault Refusal :=
  writeReg s rd (sext8 (lowByte (s.get rs))) 1

/-- `bswap Rs, Rd` (R204). -/
def execBswap (rs rd : Reg) (s : State) : Host.Outcome State Fault Refusal :=
  writeReg s rd (lowByte (s.get rs) ++ highByte (s.get rs)) 1

/-- `sextw Rs, Rd` (R205). -/
def execSextw (rs rd : Reg) (s : State) : Host.Outcome State Fault Refusal :=
  writeReg s rd (if (s.get rs).msb then 0xFFFF else 0x0000) 1

/-- `ld (Rs), Rd`, written with braces in the assembly: load program memory (R206). -/
def execMov16pr (rs rd : Reg) (s : State) : Host.Outcome State Fault Refusal :=
  andThen (readProg s (s.get rs)) fun w => writeReg s rd w 1

/-- `lsr Rs, Rd` (R210); no flag is written. -/
def execLsr (rs rd : Reg) (s : State) : Host.Outcome State Fault Refusal :=
  writeReg s rd (s.get rs >>> 1) 1

/-- `lsl Rs, Rd` (R211); no flag is written. -/
def execLsl (rs rd : Reg) (s : State) : Host.Outcome State Fault Refusal :=
  writeReg s rd (s.get rs <<< 1) 1

/-- `asr Rs, Rd` (R212); no flag is written. -/
def execAsr (rs rd : Reg) (s : State) : Host.Outcome State Fault Refusal :=
  writeReg s rd ((s.get rs >>> 1) ||| (s.get rs &&& 0x8000)) 1

/-- `neg Rs, Rd` (R213). -/
def execNeg (rs rd : Reg) (s : State) : Host.Outcome State Fault Refusal :=
  logicOp s rd (0 - s.get rs)

/-- `not Rs, Rd` (R214). -/
def execNotrr (rs rd : Reg) (s : State) : Host.Outcome State Fault Refusal :=
  logicOp s rd (~~~(s.get rs))

end Sys2Proof.Machine
end

