-- ==== Sys2Proof/Machine/ZeroOperand.lean ====
section
/-! DEFINITION. Zero-operand instructions and the absolute call (T8): 46_zero_operand_call_absolute.md. -/

namespace Sys2Proof.Machine

/-- `ret` (R170). -/
def execRet (s : State) : Host.Outcome State Fault Refusal :=
  andThen (popWord s) fun (t, s') => .next (s'.setPc t)

/-- `reti` (R172): under `IRQ_MODEL = none` the spec gives it no meaning; under candidate_A it is the
return from an interrupt (60_exceptions.md R237). -/
def execReti (s : State) : Host.Outcome State Fault Refusal :=
  match s.cfg.irqModel with
  | .noDelivery => .refused .retiNotSpecified
  | .candidateA _ => interruptReturn s

/-- `dint` (R173). -/
def execDint (s : State) : Host.Outcome State Fault Refusal :=
  .next ((s.setI false).advance 1)

/-- `eint` (R174). -/
def execEint (s : State) : Host.Outcome State Fault Refusal :=
  .next ((s.setI true).advance 1)

/-- `call &A` (R171): a two-word instruction. -/
def execCalladr (a : Word) (s : State) : Host.Outcome State Fault Refusal :=
  callOp s a 2

end Sys2Proof.Machine
end

