-- ==== Sys2Proof/Machine/Dispatch.lean ====
section
/-! DEFINITION. One arm per constructor of Instr: a direct call of the instruction's meaning. -/

namespace Sys2Proof.Machine

def exec (i : Instr) (s : State) : Host.Outcome State Fault Refusal :=
  match i with
  | .jmprel a => Sys2Proof.Machine.execJmprel a s
  | .callrel a => Sys2Proof.Machine.execCallrel a s
  | .breq a => Sys2Proof.Machine.execBreq a s
  | .brne a => Sys2Proof.Machine.execBrne a s
  | .bruge a => Sys2Proof.Machine.execBruge a s
  | .brult a => Sys2Proof.Machine.execBrult a s
  | .brlt a => Sys2Proof.Machine.execBrlt a s
  | .brge a => Sys2Proof.Machine.execBrge a s
  | .brugt a => Sys2Proof.Machine.execBrugt a s
  | .brgt a => Sys2Proof.Machine.execBrgt a s
  | .movkr k rd => Sys2Proof.Machine.execMovkr k rd s
  | .cmpkr k rd => Sys2Proof.Machine.execCmpkr k rd s
  | .addkr k rd => Sys2Proof.Machine.execAddkr k rd s
  | .subkr k rd => Sys2Proof.Machine.execSubkr k rd s
  | .andkr k rd => Sys2Proof.Machine.execAndkr k rd s
  | .orkr k rd => Sys2Proof.Machine.execOrkr k rd s
  | .xorkr k rd => Sys2Proof.Machine.execXorkr k rd s
  | .mov16mr k rs rd => Sys2Proof.Machine.execMov16mr k rs rd s
  | .movs8mr k rs rd => Sys2Proof.Machine.execMovs8mr k rs rd s
  | .mov16rm k rs rd => Sys2Proof.Machine.execMov16rm k rs rd s
  | .mov8rm k rs rd => Sys2Proof.Machine.execMov8rm k rs rd s
  | .addrrr rn rs rd => Sys2Proof.Machine.execAddrrr rn rs rd s
  | .adcrrr rn rs rd => Sys2Proof.Machine.execAdcrrr rn rs rd s
  | .subrrr rn rs rd => Sys2Proof.Machine.execSubrrr rn rs rd s
  | .subcrrr rn rs rd => Sys2Proof.Machine.execSubcrrr rn rs rd s
  | .orrrr rn rs rd => Sys2Proof.Machine.execOrrrr rn rs rd s
  | .andrrr rn rs rd => Sys2Proof.Machine.execAndrrr rn rs rd s
  | .xorrrr rn rs rd => Sys2Proof.Machine.execXorrrr rn rs rd s
  | .mov16nr rn rs rd => Sys2Proof.Machine.execMov16nr rn rs rd s
  | .mov8znr rn rs rd => Sys2Proof.Machine.execMov8znr rn rs rd s
  | .mov8snr rn rs rd => Sys2Proof.Machine.execMov8snr rn rs rd s
  | .mov16rn rn rs rd => Sys2Proof.Machine.execMov16rn rn rs rd s
  | .mov8rn rn rs rd => Sys2Proof.Machine.execMov8rn rn rs rd s
  | .seleq rn rs rd => Sys2Proof.Machine.execSeleq rn rs rd s
  | .selne rn rs rd => Sys2Proof.Machine.execSelne rn rs rd s
  | .seluge rn rs rd => Sys2Proof.Machine.execSeluge rn rs rd s
  | .selult rn rs rd => Sys2Proof.Machine.execSelult rn rs rd s
  | .sellt rn rs rd => Sys2Proof.Machine.execSellt rn rs rd s
  | .selge rn rs rd => Sys2Proof.Machine.execSelge rn rs rd s
  | .selugt rn rs rd => Sys2Proof.Machine.execSelugt rn rs rd s
  | .selgt rn rs rd => Sys2Proof.Machine.execSelgt rn rs rd s
  | .seteq _ rd => Sys2Proof.Machine.execSeteq rd s
  | .setne _ rd => Sys2Proof.Machine.execSetne rd s
  | .setuge _ rd => Sys2Proof.Machine.execSetuge rd s
  | .setult _ rd => Sys2Proof.Machine.execSetult rd s
  | .setlt _ rd => Sys2Proof.Machine.execSetlt rd s
  | .setge _ rd => Sys2Proof.Machine.execSetge rd s
  | .setugt _ rd => Sys2Proof.Machine.execSetugt rd s
  | .setgt _ rd => Sys2Proof.Machine.execSetgt rd s
  | .ret _ => Sys2Proof.Machine.execRet s
  | .reti _ => Sys2Proof.Machine.execReti s
  | .dint _ => Sys2Proof.Machine.execDint s
  | .eint _ => Sys2Proof.Machine.execEint s
  | .calladr _ a => Sys2Proof.Machine.execCalladr a s
  | .jmpreg _ rd => Sys2Proof.Machine.execJmpreg rd s
  | .callreg _ rd => Sys2Proof.Machine.execCallreg rd s
  | .push _ rd => Sys2Proof.Machine.execPush rd s
  | .pop _ rd => Sys2Proof.Machine.execPop rd s
  | .movSr _ rd => Sys2Proof.Machine.execMovSr rd s
  | .movrS _ rd => Sys2Proof.Machine.execMovrS rd s
  | .movKr _ rd k => Sys2Proof.Machine.execMovKr rd k s
  | .mov16ar _ rd a => Sys2Proof.Machine.execMov16ar rd a s
  | .mov8zar _ rd a => Sys2Proof.Machine.execMov8zar rd a s
  | .mov8sar _ rd a => Sys2Proof.Machine.execMov8sar rd a s
  | .mov16ra _ rd a => Sys2Proof.Machine.execMov16ra rd a s
  | .mov8ra _ rd a => Sys2Proof.Machine.execMov8ra rd a s
  | .movrr rs rd => Sys2Proof.Machine.execMovrr rs rd s
  | .cmprr rs rd => Sys2Proof.Machine.execCmprr rs rd s
  | .zext rs rd => Sys2Proof.Machine.execZext rs rd s
  | .sext rs rd => Sys2Proof.Machine.execSext rs rd s
  | .bswap rs rd => Sys2Proof.Machine.execBswap rs rd s
  | .sextw rs rd => Sys2Proof.Machine.execSextw rs rd s
  | .mov16pr rs rd => Sys2Proof.Machine.execMov16pr rs rd s
  | .lsr rs rd => Sys2Proof.Machine.execLsr rs rd s
  | .lsl rs rd => Sys2Proof.Machine.execLsl rs rd s
  | .asr rs rd => Sys2Proof.Machine.execAsr rs rd s
  | .neg rs rd => Sys2Proof.Machine.execNeg rs rd s
  | .notrr rs rd => Sys2Proof.Machine.execNotrr rs rd s
  | .movMr rs rd k => Sys2Proof.Machine.execMovMr rs rd k s
  | .mov16Mr rs rd k => Sys2Proof.Machine.execMov16Mr rs rd k s
  | .mov8zMr rs rd k => Sys2Proof.Machine.execMov8zMr rs rd k s
  | .mov8sMr rs rd k => Sys2Proof.Machine.execMov8sMr rs rd k s
  | .mov16rM rs rd k => Sys2Proof.Machine.execMov16rM rs rd k s
  | .mov8rM rs rd k => Sys2Proof.Machine.execMov8rM rs rd k s
  | .reservedT3_111 _ _ => Sys2Proof.Machine.execReservedT3_111 s
  | .reservedT5_0111 _ _ _ => Sys2Proof.Machine.execReservedT5_0111 s
  | .reservedT5_1000 _ _ _ => Sys2Proof.Machine.execReservedT5_1000 s
  | .reservedT5_1110 _ _ _ => Sys2Proof.Machine.execReservedT5_1110 s
  | .reservedT5_1111 _ _ _ => Sys2Proof.Machine.execReservedT5_1111 s
  | .reservedT8_100 _ => Sys2Proof.Machine.execReservedT8_100 s
  | .reservedT8_101 _ => Sys2Proof.Machine.execReservedT8_101 s
  | .reservedT8_110 _ => Sys2Proof.Machine.execReservedT8_110 s
  | .reservedT9_100_0 _ _ => Sys2Proof.Machine.execReservedT9_100_0 s
  | .reservedT9_101_0 _ _ => Sys2Proof.Machine.execReservedT9_101_0 s
  | .reservedT9_110_1 _ _ => Sys2Proof.Machine.execReservedT9_110_1 s
  | .reservedT9_111_1 _ _ => Sys2Proof.Machine.execReservedT9_111_1 s
  | .reservedT10_110_00 _ _ => Sys2Proof.Machine.execReservedT10_110_00 s
  | .reservedT10_011_01 _ _ => Sys2Proof.Machine.execReservedT10_011_01 s
  | .reservedT10_100_01 _ _ => Sys2Proof.Machine.execReservedT10_100_01 s
  | .reservedT10_111_01 _ _ => Sys2Proof.Machine.execReservedT10_111_01 s
  | .reservedT10_110_10 _ _ => Sys2Proof.Machine.execReservedT10_110_10 s
  | .reservedT10_111_10 _ _ => Sys2Proof.Machine.execReservedT10_111_10 s
  | .reservedT10_xxx_11 _ _ _ => Sys2Proof.Machine.execReservedT10_xxx_11 s

end Sys2Proof.Machine
end

