-- ==== Sys2Proof/WellFormed.lean ====
section
/-! DEFINITION. Well-formed instructions: the operand fields are typed by their widths in Syntax, so
the one check left is that of the "x" bits, which depends on `STRICT_X` (30_encoding.md R101). -/

namespace Sys2Proof

/-- The value of an instruction's "x" bits (T7 bits 5:3, T8 bits 5:0, T9 bits 5:3), 0 where its
pattern has none. A reserved encoding has no "x" check: it is refused as reserved first (R233). -/
def Instr.xBits : Instr → BitVec 6
  | .seteq x _ => x.setWidth 6
  | .setne x _ => x.setWidth 6
  | .setuge x _ => x.setWidth 6
  | .setult x _ => x.setWidth 6
  | .setlt x _ => x.setWidth 6
  | .setge x _ => x.setWidth 6
  | .setugt x _ => x.setWidth 6
  | .setgt x _ => x.setWidth 6
  | .ret x => x
  | .reti x => x
  | .dint x => x
  | .eint x => x
  | .calladr x _ => x
  | .jmpreg x _ => x.setWidth 6
  | .callreg x _ => x.setWidth 6
  | .push x _ => x.setWidth 6
  | .pop x _ => x.setWidth 6
  | .movSr x _ => x.setWidth 6
  | .movrS x _ => x.setWidth 6
  | .movKr x _ _ => x.setWidth 6
  | .mov16ar x _ _ => x.setWidth 6
  | .mov8zar x _ _ => x.setWidth 6
  | .mov8sar x _ _ => x.setWidth 6
  | .mov16ra x _ _ => x.setWidth 6
  | .mov8ra x _ _ => x.setWidth 6
  | _ => 0

/-- With `STRICT_X = true` an instruction's x bits are zero; with `STRICT_X = false` they are free. -/
def Instr.wellFormed (strict : Bool) (i : Instr) : Bool :=
  !strict || i.xBits == 0

end Sys2Proof
end

