-- ==== Sys2Proof/Decode.lean ====
section
/-! DEFINITION. The decoder and the encoder, both written from 30_encoding.md (patterns R83 to R95,
opcode map R103, reserved encodings R100). The decoder follows the decode tree of R82. -/

namespace Sys2Proof

/-- The field of `len` bits of a word from bit `lo` up (R6). -/
def field (w : Word) (lo len : Nat) : BitVec len := w.extractLsb' lo len

/-- The register a 3-bit field names (10_state.md R21). -/
def Reg.ofBits (b : BitVec 3) : Reg :=
  match b.toNat with
  | 0 => .r0
  | 1 => .r1
  | 2 => .r2
  | 3 => .r3
  | 4 => .r4
  | 5 => .r5
  | 6 => .r6
  | _ => .sp

/-- The number of a register (10_state.md R21). -/
def Reg.toBits : Reg → BitVec 3
  | .r0 => 0
  | .r1 => 1
  | .r2 => 2
  | .r3 => 3
  | .r4 => 4
  | .r5 => 5
  | .r6 => 6
  | .sp => 7

/-- Rd: bits 2:0 in every pattern (30_encoding.md, section 3). -/
def rdOf (w : Word) : Reg := Reg.ofBits (field w 0 3)

/-- Rs: bits 5:3 in every pattern that has it. -/
def rsOf (w : Word) : Reg := Reg.ofBits (field w 3 3)

/-- Rn: bits 8:6 in every pattern that has it. -/
def rnOf (w : Word) : Reg := Reg.ofBits (field w 6 3)

/-- T1 (R83). -/
def decodeT1 (w : Word) : Instr :=
  match (field w 12 1).toNat with
  | 0 => .jmprel (field w 0 12)
  | _ => .callrel (field w 0 12)

/-- T2 (R84). -/
def decodeT2 (w : Word) : Instr :=
  match (field w 10 3).toNat with
  | 0 => .breq (field w 0 10)
  | 1 => .brne (field w 0 10)
  | 2 => .bruge (field w 0 10)
  | 3 => .brult (field w 0 10)
  | 4 => .brlt (field w 0 10)
  | 5 => .brge (field w 0 10)
  | 6 => .brugt (field w 0 10)
  | _ => .brgt (field w 0 10)

/-- T3 (R85). -/
def decodeT3 (w : Word) : Instr :=
  match (field w 11 3).toNat with
  | 0 => .movkr (field w 3 8) (rdOf w)
  | 1 => .cmpkr (field w 3 8) (rdOf w)
  | 2 => .addkr (field w 3 8) (rdOf w)
  | 3 => .subkr (field w 3 8) (rdOf w)
  | 4 => .andkr (field w 3 8) (rdOf w)
  | 5 => .orkr (field w 3 8) (rdOf w)
  | 6 => .xorkr (field w 3 8) (rdOf w)
  | _ => .reservedT3_111 (field w 3 8) (rdOf w)

/-- T4 (R86). -/
def decodeT4 (w : Word) : Instr :=
  match (field w 12 2).toNat with
  | 0 => .mov16mr (field w 6 6) (rsOf w) (rdOf w)
  | 1 => .movs8mr (field w 6 6) (rsOf w) (rdOf w)
  | 2 => .mov16rm (field w 6 6) (rsOf w) (rdOf w)
  | _ => .mov8rm (field w 6 6) (rsOf w) (rdOf w)

/-- T5 (R87). -/
def decodeT5 (w : Word) : Instr :=
  match (field w 9 4).toNat with
  | 0 => .addrrr (rnOf w) (rsOf w) (rdOf w)
  | 1 => .adcrrr (rnOf w) (rsOf w) (rdOf w)
  | 2 => .subrrr (rnOf w) (rsOf w) (rdOf w)
  | 3 => .subcrrr (rnOf w) (rsOf w) (rdOf w)
  | 4 => .orrrr (rnOf w) (rsOf w) (rdOf w)
  | 5 => .andrrr (rnOf w) (rsOf w) (rdOf w)
  | 6 => .xorrrr (rnOf w) (rsOf w) (rdOf w)
  | 7 => .reservedT5_0111 (rnOf w) (rsOf w) (rdOf w)
  | 8 => .reservedT5_1000 (rnOf w) (rsOf w) (rdOf w)
  | 9 => .mov16nr (rnOf w) (rsOf w) (rdOf w)
  | 10 => .mov8znr (rnOf w) (rsOf w) (rdOf w)
  | 11 => .mov8snr (rnOf w) (rsOf w) (rdOf w)
  | 12 => .mov16rn (rnOf w) (rsOf w) (rdOf w)
  | 13 => .mov8rn (rnOf w) (rsOf w) (rdOf w)
  | 14 => .reservedT5_1110 (rnOf w) (rsOf w) (rdOf w)
  | _ => .reservedT5_1111 (rnOf w) (rsOf w) (rdOf w)

/-- T6 (R88). -/
def decodeT6 (w : Word) : Instr :=
  match (field w 10 3).toNat with
  | 0 => .seleq (rnOf w) (rsOf w) (rdOf w)
  | 1 => .selne (rnOf w) (rsOf w) (rdOf w)
  | 2 => .seluge (rnOf w) (rsOf w) (rdOf w)
  | 3 => .selult (rnOf w) (rsOf w) (rdOf w)
  | 4 => .sellt (rnOf w) (rsOf w) (rdOf w)
  | 5 => .selge (rnOf w) (rsOf w) (rdOf w)
  | 6 => .selugt (rnOf w) (rsOf w) (rdOf w)
  | _ => .selgt (rnOf w) (rsOf w) (rdOf w)

/-- T7 (R89). -/
def decodeT7 (w : Word) : Instr :=
  match (field w 10 3).toNat with
  | 0 => .seteq (field w 3 3) (rdOf w)
  | 1 => .setne (field w 3 3) (rdOf w)
  | 2 => .setuge (field w 3 3) (rdOf w)
  | 3 => .setult (field w 3 3) (rdOf w)
  | 4 => .setlt (field w 3 3) (rdOf w)
  | 5 => .setge (field w 3 3) (rdOf w)
  | 6 => .setugt (field w 3 3) (rdOf w)
  | _ => .setgt (field w 3 3) (rdOf w)

/-- T8 (R93); `k` is the second word, used by `calladr` alone (R96). -/
def decodeT8 (w k : Word) : Instr :=
  match (field w 10 3).toNat with
  | 0 => .ret (field w 0 6)
  | 1 => .reti (field w 0 6)
  | 2 => .dint (field w 0 6)
  | 3 => .eint (field w 0 6)
  | 4 => .reservedT8_100 (field w 0 6)
  | 5 => .reservedT8_101 (field w 0 6)
  | 6 => .reservedT8_110 (field w 0 6)
  | _ => .calladr (field w 0 6) k

/-- T9 with `o` = 0 (R94). -/
def decodeT9one (w : Word) : Instr :=
  match (field w 10 3).toNat with
  | 0 => .jmpreg (field w 3 3) (rdOf w)
  | 1 => .callreg (field w 3 3) (rdOf w)
  | 2 => .push (field w 3 3) (rdOf w)
  | 3 => .pop (field w 3 3) (rdOf w)
  | 4 => .reservedT9_100_0 (field w 3 3) (rdOf w)
  | 5 => .reservedT9_101_0 (field w 3 3) (rdOf w)
  | 6 => .movSr (field w 3 3) (rdOf w)
  | _ => .movrS (field w 3 3) (rdOf w)

/-- T9 with `o` = 1, whose second word is `k` (R94, R96). -/
def decodeT9two (w k : Word) : Instr :=
  match (field w 10 3).toNat with
  | 0 => .movKr (field w 3 3) (rdOf w) k
  | 1 => .mov16ar (field w 3 3) (rdOf w) k
  | 2 => .mov8zar (field w 3 3) (rdOf w) k
  | 3 => .mov8sar (field w 3 3) (rdOf w) k
  | 4 => .mov16ra (field w 3 3) (rdOf w) k
  | 5 => .mov8ra (field w 3 3) (rdOf w) k
  | 6 => .reservedT9_110_1 (field w 3 3) (rdOf w)
  | _ => .reservedT9_111_1 (field w 3 3) (rdOf w)

/-- T10 with `op2` = 00: move, compare, extend (R95). -/
def decodeT10move (w : Word) : Instr :=
  match (field w 10 3).toNat with
  | 0 => .movrr (rsOf w) (rdOf w)
  | 1 => .cmprr (rsOf w) (rdOf w)
  | 2 => .zext (rsOf w) (rdOf w)
  | 3 => .sext (rsOf w) (rdOf w)
  | 4 => .bswap (rsOf w) (rdOf w)
  | 5 => .sextw (rsOf w) (rdOf w)
  | 6 => .reservedT10_110_00 (rsOf w) (rdOf w)
  | _ => .mov16pr (rsOf w) (rdOf w)

/-- T10 with `op2` = 01: shifts, negate, complement (R95). -/
def decodeT10alu (w : Word) : Instr :=
  match (field w 10 3).toNat with
  | 0 => .lsr (rsOf w) (rdOf w)
  | 1 => .lsl (rsOf w) (rdOf w)
  | 2 => .asr (rsOf w) (rdOf w)
  | 3 => .reservedT10_011_01 (rsOf w) (rdOf w)
  | 4 => .reservedT10_100_01 (rsOf w) (rdOf w)
  | 5 => .neg (rsOf w) (rdOf w)
  | 6 => .notrr (rsOf w) (rdOf w)
  | _ => .reservedT10_111_01 (rsOf w) (rdOf w)

/-- T10 with `op2` = 10: word offset (second word `k`) (R95). -/
def decodeT10offset (w k : Word) : Instr :=
  match (field w 10 3).toNat with
  | 0 => .movMr (rsOf w) (rdOf w) k
  | 1 => .mov16Mr (rsOf w) (rdOf w) k
  | 2 => .mov8zMr (rsOf w) (rdOf w) k
  | 3 => .mov8sMr (rsOf w) (rdOf w) k
  | 4 => .mov16rM (rsOf w) (rdOf w) k
  | 5 => .mov8rM (rsOf w) (rdOf w) k
  | 6 => .reservedT10_110_10 (rsOf w) (rdOf w)
  | _ => .reservedT10_111_10 (rsOf w) (rdOf w)

/-- The patterns under the prefix `000`, by bits 9:6 (R82). -/
def decodeT6to10 (w k : Word) : Instr :=
  match (field w 6 4).toNat with
  | 0 => decodeT10move w
  | 1 => decodeT10alu w
  | 2 => decodeT10offset w k
  | 3 => .reservedT10_xxx_11 (field w 10 3) (rsOf w) (rdOf w)
  | 4 => decodeT9one w
  | 5 => decodeT9two w k
  | 6 => decodeT8 w k
  | 7 => decodeT7 w
  | _ => decodeT6 w

/-- The instruction whose first word is `w` and whose second word, if it has one, is `k`. Every
first word matches exactly one row of the opcode map (R82, R100, R103), so this is total; a
reserved encoding is a constructor of its own. -/
def decode (w k : Word) : Instr :=
  match (field w 13 3).toNat with
  | 0 => decodeT6to10 w k
  | 1 => decodeT5 w
  | 2 => decodeT4 w
  | 3 => decodeT4 w
  | 4 => decodeT3 w
  | 5 => decodeT3 w
  | 6 => decodeT2 w
  | _ => decodeT1 w

/-- The first word alone tells the length (R81): true for the 13 instructions that take a second
word. A reserved encoding has no length of its own (R100) and counts as one word. -/
def twoWords (w : Word) : Bool :=
  match (decode w 0) with
  | .calladr _ _ => true
  | .movKr _ _ _ => true
  | .mov16ar _ _ _ => true
  | .mov8zar _ _ _ => true
  | .mov8sar _ _ _ => true
  | .mov16ra _ _ _ => true
  | .mov8ra _ _ _ => true
  | .movMr _ _ _ => true
  | .mov16Mr _ _ _ => true
  | .mov8zMr _ _ _ => true
  | .mov8sMr _ _ _ => true
  | .mov16rM _ _ _ => true
  | .mov8rM _ _ _ => true
  | _ => false

/-- Why a list of words is not decoded. -/
inductive DecodeError where
  /-- There is no first word. -/
  | noWord
  /-- The first word takes a second word and there is none (R81). -/
  | missingSecondWord
  /-- `STRICT_X = true` and an x bit is set (R101). -/
  | nonzeroXBits
deriving DecidableEq, Repr

/-- Decode the instruction at the head of a list of words, and give the words after it. The x bits
are tested before the second word is asked for (60_exceptions.md R233). -/
def decodeWords (strict : Bool) : List Word → Except DecodeError (Instr × List Word)
  | [] => .error .noWord
  | w :: rest =>
    if (decode w 0).wellFormed strict then
      if twoWords w then
        match rest with
        | [] => .error .missingSecondWord
        | k :: rest' => .ok (decode w k, rest')
      else .ok (decode w 0, rest)
    else .error .nonzeroXBits

/-! The encoder: the words of an instruction, from the same tables. -/

/-- T1 (R83): `111 op a`. -/
def encodeT1 (op : BitVec 1) (a : BitVec 12) : Word := 0b111#3 ++ (op ++ a)

/-- T2 (R84): `110 cc a`. -/
def encodeT2 (cc : BitVec 3) (a : BitVec 10) : Word := 0b110#3 ++ (cc ++ a)

/-- T3 (R85): `10 op k Rd`. -/
def encodeT3 (op : BitVec 3) (k : BitVec 8) (rd : Reg) : Word := 0b10#2 ++ (op ++ (k ++ rd.toBits))

/-- T4 (R86): `01 op k Rs Rd`. -/
def encodeT4 (op : BitVec 2) (k : BitVec 6) (rs rd : Reg) : Word :=
  0b01#2 ++ (op ++ (k ++ (rs.toBits ++ rd.toBits)))

/-- T5 (R87): `001 op Rn Rs Rd`. -/
def encodeT5 (op : BitVec 4) (rn rs rd : Reg) : Word :=
  0b001#3 ++ (op ++ (rn.toBits ++ (rs.toBits ++ rd.toBits)))

/-- T6 (R88): `000 cc 1 Rn Rs Rd`. -/
def encodeT6 (cc : BitVec 3) (rn rs rd : Reg) : Word :=
  0b000#3 ++ (cc ++ (0b1#1 ++ (rn.toBits ++ (rs.toBits ++ rd.toBits))))

/-- T7 (R89): `000 cc 0111 xxx Rd`. -/
def encodeT7 (cc : BitVec 3) (x : BitVec 3) (rd : Reg) : Word :=
  0b000#3 ++ (cc ++ (0b0111#4 ++ (x ++ rd.toBits)))

/-- T8 (R93): `000 op 0110 xxxxxx`. -/
def encodeT8 (op : BitVec 3) (x : BitVec 6) : Word := 0b000#3 ++ (op ++ (0b0110#4 ++ x))

/-- T9 (R94): `000 op 010 o xxx Rd`. -/
def encodeT9 (op : BitVec 3) (o : BitVec 1) (x : BitVec 3) (rd : Reg) : Word :=
  0b000#3 ++ (op ++ (0b010#3 ++ (o ++ (x ++ rd.toBits))))

/-- T10 (R95): `000 op 00 op2 Rs Rd`. -/
def encodeT10 (op : BitVec 3) (op2 : BitVec 2) (rs rd : Reg) : Word :=
  0b000#3 ++ (op ++ (0b00#2 ++ (op2 ++ (rs.toBits ++ rd.toBits))))

/-- The words of an instruction, first word first. -/
def encode : Instr → List Word
  | .jmprel a => [encodeT1 0 a]
  | .callrel a => [encodeT1 1 a]
  | .breq a => [encodeT2 0 a]
  | .brne a => [encodeT2 1 a]
  | .bruge a => [encodeT2 2 a]
  | .brult a => [encodeT2 3 a]
  | .brlt a => [encodeT2 4 a]
  | .brge a => [encodeT2 5 a]
  | .brugt a => [encodeT2 6 a]
  | .brgt a => [encodeT2 7 a]
  | .movkr k rd => [encodeT3 0 k rd]
  | .cmpkr k rd => [encodeT3 1 k rd]
  | .addkr k rd => [encodeT3 2 k rd]
  | .subkr k rd => [encodeT3 3 k rd]
  | .andkr k rd => [encodeT3 4 k rd]
  | .orkr k rd => [encodeT3 5 k rd]
  | .xorkr k rd => [encodeT3 6 k rd]
  | .mov16mr k rs rd => [encodeT4 0 k rs rd]
  | .movs8mr k rs rd => [encodeT4 1 k rs rd]
  | .mov16rm k rs rd => [encodeT4 2 k rs rd]
  | .mov8rm k rs rd => [encodeT4 3 k rs rd]
  | .addrrr rn rs rd => [encodeT5 0 rn rs rd]
  | .adcrrr rn rs rd => [encodeT5 1 rn rs rd]
  | .subrrr rn rs rd => [encodeT5 2 rn rs rd]
  | .subcrrr rn rs rd => [encodeT5 3 rn rs rd]
  | .orrrr rn rs rd => [encodeT5 4 rn rs rd]
  | .andrrr rn rs rd => [encodeT5 5 rn rs rd]
  | .xorrrr rn rs rd => [encodeT5 6 rn rs rd]
  | .mov16nr rn rs rd => [encodeT5 9 rn rs rd]
  | .mov8znr rn rs rd => [encodeT5 10 rn rs rd]
  | .mov8snr rn rs rd => [encodeT5 11 rn rs rd]
  | .mov16rn rn rs rd => [encodeT5 12 rn rs rd]
  | .mov8rn rn rs rd => [encodeT5 13 rn rs rd]
  | .seleq rn rs rd => [encodeT6 0 rn rs rd]
  | .selne rn rs rd => [encodeT6 1 rn rs rd]
  | .seluge rn rs rd => [encodeT6 2 rn rs rd]
  | .selult rn rs rd => [encodeT6 3 rn rs rd]
  | .sellt rn rs rd => [encodeT6 4 rn rs rd]
  | .selge rn rs rd => [encodeT6 5 rn rs rd]
  | .selugt rn rs rd => [encodeT6 6 rn rs rd]
  | .selgt rn rs rd => [encodeT6 7 rn rs rd]
  | .seteq x rd => [encodeT7 0 x rd]
  | .setne x rd => [encodeT7 1 x rd]
  | .setuge x rd => [encodeT7 2 x rd]
  | .setult x rd => [encodeT7 3 x rd]
  | .setlt x rd => [encodeT7 4 x rd]
  | .setge x rd => [encodeT7 5 x rd]
  | .setugt x rd => [encodeT7 6 x rd]
  | .setgt x rd => [encodeT7 7 x rd]
  | .ret x => [encodeT8 0 x]
  | .reti x => [encodeT8 1 x]
  | .dint x => [encodeT8 2 x]
  | .eint x => [encodeT8 3 x]
  | .calladr x a => [encodeT8 7 x, a]
  | .jmpreg x rd => [encodeT9 0 0 x rd]
  | .callreg x rd => [encodeT9 1 0 x rd]
  | .push x rd => [encodeT9 2 0 x rd]
  | .pop x rd => [encodeT9 3 0 x rd]
  | .movSr x rd => [encodeT9 6 0 x rd]
  | .movrS x rd => [encodeT9 7 0 x rd]
  | .movKr x rd k => [encodeT9 0 1 x rd, k]
  | .mov16ar x rd a => [encodeT9 1 1 x rd, a]
  | .mov8zar x rd a => [encodeT9 2 1 x rd, a]
  | .mov8sar x rd a => [encodeT9 3 1 x rd, a]
  | .mov16ra x rd a => [encodeT9 4 1 x rd, a]
  | .mov8ra x rd a => [encodeT9 5 1 x rd, a]
  | .movrr rs rd => [encodeT10 0 0 rs rd]
  | .cmprr rs rd => [encodeT10 1 0 rs rd]
  | .zext rs rd => [encodeT10 2 0 rs rd]
  | .sext rs rd => [encodeT10 3 0 rs rd]
  | .bswap rs rd => [encodeT10 4 0 rs rd]
  | .sextw rs rd => [encodeT10 5 0 rs rd]
  | .mov16pr rs rd => [encodeT10 7 0 rs rd]
  | .lsr rs rd => [encodeT10 0 1 rs rd]
  | .lsl rs rd => [encodeT10 1 1 rs rd]
  | .asr rs rd => [encodeT10 2 1 rs rd]
  | .neg rs rd => [encodeT10 5 1 rs rd]
  | .notrr rs rd => [encodeT10 6 1 rs rd]
  | .movMr rs rd k => [encodeT10 0 2 rs rd, k]
  | .mov16Mr rs rd k => [encodeT10 1 2 rs rd, k]
  | .mov8zMr rs rd k => [encodeT10 2 2 rs rd, k]
  | .mov8sMr rs rd k => [encodeT10 3 2 rs rd, k]
  | .mov16rM rs rd k => [encodeT10 4 2 rs rd, k]
  | .mov8rM rs rd k => [encodeT10 5 2 rs rd, k]
  | .reservedT3_111 k rd => [encodeT3 7 k rd]
  | .reservedT5_0111 rn rs rd => [encodeT5 7 rn rs rd]
  | .reservedT5_1000 rn rs rd => [encodeT5 8 rn rs rd]
  | .reservedT5_1110 rn rs rd => [encodeT5 14 rn rs rd]
  | .reservedT5_1111 rn rs rd => [encodeT5 15 rn rs rd]
  | .reservedT8_100 x => [encodeT8 4 x]
  | .reservedT8_101 x => [encodeT8 5 x]
  | .reservedT8_110 x => [encodeT8 6 x]
  | .reservedT9_100_0 x rd => [encodeT9 4 0 x rd]
  | .reservedT9_101_0 x rd => [encodeT9 5 0 x rd]
  | .reservedT9_110_1 x rd => [encodeT9 6 1 x rd]
  | .reservedT9_111_1 x rd => [encodeT9 7 1 x rd]
  | .reservedT10_110_00 rs rd => [encodeT10 6 0 rs rd]
  | .reservedT10_011_01 rs rd => [encodeT10 3 1 rs rd]
  | .reservedT10_100_01 rs rd => [encodeT10 4 1 rs rd]
  | .reservedT10_111_01 rs rd => [encodeT10 7 1 rs rd]
  | .reservedT10_110_10 rs rd => [encodeT10 6 2 rs rd]
  | .reservedT10_111_10 rs rd => [encodeT10 7 2 rs rd]
  | .reservedT10_xxx_11 op rs rd => [encodeT10 op 3 rs rd]

/-- The length of an instruction in words, the L of 10_state.md R24 (R80, R81). -/
def Instr.length (i : Instr) : Nat := (encode i).length

/-- The instruction the decoder reads from the bits `w` of an opcode-table row of `nbits` bits: bits
15:0 are the first word, bits 31:16 the second, and every bit from `nbits` up is 0. Program memory
is addressed by words, so there is no byte order to apply (20_memory.md R50). The decoder is the
default one, `STRICT_X = false` (R101). -/
def decodeTableWord (nbits w : Nat) : Option Instr :=
  let v := w % 2 ^ nbits
  match decodeWords false [BitVec.ofNat 16 v, BitVec.ofNat 16 (v / 2 ^ 16)] with
  | .ok (i, _) => some i
  | .error _ => none

end Sys2Proof
end

