-- ==== Sys2Proof/Machine/Fetch.lean ====
section
/-! DEFINITION. Fetching and decoding the instruction at the program counter (20_memory.md R56,
30_encoding.md R81), and placing one there. -/

namespace Sys2Proof.Machine

/-- The instruction at `pc`. The first word alone tells its length; the second word is fetched at
`(pc + 1) mod 65536` (R56, R81). The x bits are tested before the second word is fetched, and a
reserved encoding takes none (60_exceptions.md R233). -/
def fetchInstr (s : State) : Res Instr :=
  andThen (readProg s s.pc) fun w =>
    if (decode w 0).wellFormed s.cfg.strictX then
      if twoWords w then andThen (readProg s (s.pc + 1)) fun k => .next (decode w k)
      else .next (decode w 0)
    else .refused .nonzeroXBits

/-- Two words placed at `pc` and after it, as the host's load does (70_reset_and_hazards.md R255). -/
def placeAtPc (s : State) (w k : Word) : State :=
  loadProgramWord (loadProgramWord s s.pc w) (s.pc + 1) k

/-- No interrupt request is offered at this instruction boundary; a request that would be taken here
is offered at the next one. Nothing changes where none would be taken (60_exceptions.md R237). -/
def deferOffer (s : State) : State :=
  match interruptDue s with
  | some _ => { s with irqOffers := false :: s.irqOffers }
  | none => s

end Sys2Proof.Machine
end

