-- ==== Sys2Proof/Machine/Step.lean ====
section
/-! DEFINITION. One step of the machine, and placing the instruction the next step runs. -/

namespace Sys2Proof.Machine

/-- One transition: the interrupt entry where one is due (60_exceptions.md R237; never under
`IRQ_MODEL = none`, R236), else the instruction at `pc`, complete before the next begins
(20_memory.md R60). -/
def step (s : State) : Host.Outcome State Fault Refusal :=
  match interruptDue s with
  | some vector => interruptEntry vector (passOffer s)
  | none => andThen (fetchInstr (passOffer s)) fun i => exec i (passOffer s)

/-- The state whose next step runs the instruction with the bits `w` (30_encoding.md, numbered as
`decodeTableWord` numbers them): its words stand at `pc`, and no interrupt is due first. -/
def State.withFetchWord (s : State) (nbits w : Nat) : State :=
  let v := w % 2 ^ nbits
  deferOffer (placeAtPc s (BitVec.ofNat 16 v) (BitVec.ofNat 16 (v / 2 ^ 16)))

end Sys2Proof.Machine
end

