-- ==== Sys2Proof/OpcodeMap.lean ====
section
/-! DEFINITION. The opcode map of 30_encoding.md as data: the 84 instruction rows of R103 (the
condition codes written out) and the 19 reserved rows of R100. The decoder does not use it; the
claims compare the decoder with it. -/

namespace Sys2Proof

/-- A row: a first word `w` is the instruction when `w & mask = value`; it has `words` words. -/
structure OpcodeRow where
  name : String
  value : Nat
  mask : Nat
  words : Nat
deriving DecidableEq, Repr

/-- The rows of T1 to T4. -/
def opcodeT1toT4 : List OpcodeRow :=
  [⟨"jmprel", 0xE000, 0xF000, 1⟩,
   ⟨"callrel", 0xF000, 0xF000, 1⟩,
   ⟨"breq", 0xC000, 0xFC00, 1⟩,
   ⟨"brne", 0xC400, 0xFC00, 1⟩,
   ⟨"bruge", 0xC800, 0xFC00, 1⟩,
   ⟨"brult", 0xCC00, 0xFC00, 1⟩,
   ⟨"brlt", 0xD000, 0xFC00, 1⟩,
   ⟨"brge", 0xD400, 0xFC00, 1⟩,
   ⟨"brugt", 0xD800, 0xFC00, 1⟩,
   ⟨"brgt", 0xDC00, 0xFC00, 1⟩,
   ⟨"movkr", 0x8000, 0xF800, 1⟩,
   ⟨"cmpkr", 0x8800, 0xF800, 1⟩,
   ⟨"addkr", 0x9000, 0xF800, 1⟩,
   ⟨"subkr", 0x9800, 0xF800, 1⟩,
   ⟨"andkr", 0xA000, 0xF800, 1⟩,
   ⟨"orkr", 0xA800, 0xF800, 1⟩,
   ⟨"xorkr", 0xB000, 0xF800, 1⟩,
   ⟨"mov16mr", 0x4000, 0xF000, 1⟩,
   ⟨"movs8mr", 0x5000, 0xF000, 1⟩,
   ⟨"mov16rm", 0x6000, 0xF000, 1⟩,
   ⟨"mov8rm", 0x7000, 0xF000, 1⟩]

/-- The rows of T5. -/
def opcodeT5 : List OpcodeRow :=
  [⟨"addrrr", 0x2000, 0xFE00, 1⟩,
   ⟨"adcrrr", 0x2200, 0xFE00, 1⟩,
   ⟨"subrrr", 0x2400, 0xFE00, 1⟩,
   ⟨"subcrrr", 0x2600, 0xFE00, 1⟩,
   ⟨"orrrr", 0x2800, 0xFE00, 1⟩,
   ⟨"andrrr", 0x2A00, 0xFE00, 1⟩,
   ⟨"xorrrr", 0x2C00, 0xFE00, 1⟩,
   ⟨"mov16nr", 0x3200, 0xFE00, 1⟩,
   ⟨"mov8znr", 0x3400, 0xFE00, 1⟩,
   ⟨"mov8snr", 0x3600, 0xFE00, 1⟩,
   ⟨"mov16rn", 0x3800, 0xFE00, 1⟩,
   ⟨"mov8rn", 0x3A00, 0xFE00, 1⟩]

/-- The rows of T6 and T7. -/
def opcodeT6T7 : List OpcodeRow :=
  [⟨"seleq", 0x0200, 0xFE00, 1⟩,
   ⟨"selne", 0x0600, 0xFE00, 1⟩,
   ⟨"seluge", 0x0A00, 0xFE00, 1⟩,
   ⟨"selult", 0x0E00, 0xFE00, 1⟩,
   ⟨"sellt", 0x1200, 0xFE00, 1⟩,
   ⟨"selge", 0x1600, 0xFE00, 1⟩,
   ⟨"selugt", 0x1A00, 0xFE00, 1⟩,
   ⟨"selgt", 0x1E00, 0xFE00, 1⟩,
   ⟨"seteq", 0x01C0, 0xFFC0, 1⟩,
   ⟨"setne", 0x05C0, 0xFFC0, 1⟩,
   ⟨"setuge", 0x09C0, 0xFFC0, 1⟩,
   ⟨"setult", 0x0DC0, 0xFFC0, 1⟩,
   ⟨"setlt", 0x11C0, 0xFFC0, 1⟩,
   ⟨"setge", 0x15C0, 0xFFC0, 1⟩,
   ⟨"setugt", 0x19C0, 0xFFC0, 1⟩,
   ⟨"setgt", 0x1DC0, 0xFFC0, 1⟩]

/-- The rows of T8 and T9. -/
def opcodeT8T9 : List OpcodeRow :=
  [⟨"ret", 0x0180, 0xFFC0, 1⟩,
   ⟨"reti", 0x0580, 0xFFC0, 1⟩,
   ⟨"dint", 0x0980, 0xFFC0, 1⟩,
   ⟨"eint", 0x0D80, 0xFFC0, 1⟩,
   ⟨"calladr", 0x1D80, 0xFFC0, 2⟩,
   ⟨"jmpreg", 0x0100, 0xFFC0, 1⟩,
   ⟨"callreg", 0x0500, 0xFFC0, 1⟩,
   ⟨"push", 0x0900, 0xFFC0, 1⟩,
   ⟨"pop", 0x0D00, 0xFFC0, 1⟩,
   ⟨"movSr", 0x1900, 0xFFC0, 1⟩,
   ⟨"movrS", 0x1D00, 0xFFC0, 1⟩,
   ⟨"movKr", 0x0140, 0xFFC0, 2⟩,
   ⟨"mov16ar", 0x0540, 0xFFC0, 2⟩,
   ⟨"mov8zar", 0x0940, 0xFFC0, 2⟩,
   ⟨"mov8sar", 0x0D40, 0xFFC0, 2⟩,
   ⟨"mov16ra", 0x1140, 0xFFC0, 2⟩,
   ⟨"mov8ra", 0x1540, 0xFFC0, 2⟩]

/-- The rows of T10. -/
def opcodeT10 : List OpcodeRow :=
  [⟨"movrr", 0x0000, 0xFFC0, 1⟩,
   ⟨"cmprr", 0x0400, 0xFFC0, 1⟩,
   ⟨"zext", 0x0800, 0xFFC0, 1⟩,
   ⟨"sext", 0x0C00, 0xFFC0, 1⟩,
   ⟨"bswap", 0x1000, 0xFFC0, 1⟩,
   ⟨"sextw", 0x1400, 0xFFC0, 1⟩,
   ⟨"mov16pr", 0x1C00, 0xFFC0, 1⟩,
   ⟨"lsr", 0x0040, 0xFFC0, 1⟩,
   ⟨"lsl", 0x0440, 0xFFC0, 1⟩,
   ⟨"asr", 0x0840, 0xFFC0, 1⟩,
   ⟨"neg", 0x1440, 0xFFC0, 1⟩,
   ⟨"not", 0x1840, 0xFFC0, 1⟩,
   ⟨"movMr", 0x0080, 0xFFC0, 2⟩,
   ⟨"mov16Mr", 0x0480, 0xFFC0, 2⟩,
   ⟨"mov8zMr", 0x0880, 0xFFC0, 2⟩,
   ⟨"mov8sMr", 0x0C80, 0xFFC0, 2⟩,
   ⟨"mov16rM", 0x1080, 0xFFC0, 2⟩,
   ⟨"mov8rM", 0x1480, 0xFFC0, 2⟩]

/-- The reserved rows (R100). -/
def reservedMap : List OpcodeRow :=
  [⟨"reserved.T3.111", 0xB800, 0xF800, 1⟩,
   ⟨"reserved.T5.0111", 0x2E00, 0xFE00, 1⟩,
   ⟨"reserved.T5.1000", 0x3000, 0xFE00, 1⟩,
   ⟨"reserved.T5.1110", 0x3C00, 0xFE00, 1⟩,
   ⟨"reserved.T5.1111", 0x3E00, 0xFE00, 1⟩,
   ⟨"reserved.T8.100", 0x1180, 0xFFC0, 1⟩,
   ⟨"reserved.T8.101", 0x1580, 0xFFC0, 1⟩,
   ⟨"reserved.T8.110", 0x1980, 0xFFC0, 1⟩,
   ⟨"reserved.T9.100_0", 0x1100, 0xFFC0, 1⟩,
   ⟨"reserved.T9.101_0", 0x1500, 0xFFC0, 1⟩,
   ⟨"reserved.T9.110_1", 0x1940, 0xFFC0, 1⟩,
   ⟨"reserved.T9.111_1", 0x1D40, 0xFFC0, 1⟩,
   ⟨"reserved.T10.110_00", 0x1800, 0xFFC0, 1⟩,
   ⟨"reserved.T10.011_01", 0x0C40, 0xFFC0, 1⟩,
   ⟨"reserved.T10.100_01", 0x1040, 0xFFC0, 1⟩,
   ⟨"reserved.T10.111_01", 0x1C40, 0xFFC0, 1⟩,
   ⟨"reserved.T10.110_10", 0x1880, 0xFFC0, 1⟩,
   ⟨"reserved.T10.111_10", 0x1C80, 0xFFC0, 1⟩,
   ⟨"reserved.T10.xxx_11", 0x00C0, 0xE3C0, 1⟩]

/-- The 84 instruction rows (R103). -/
def instructionMap : List OpcodeRow :=
  opcodeT1toT4 ++ opcodeT5 ++ opcodeT6T7 ++ opcodeT8T9 ++ opcodeT10

/-- The whole map: 103 rows that cover all 65536 first words (R100). -/
def opcodeMap : List OpcodeRow := instructionMap ++ reservedMap

/-- A first word matches a row. -/
def OpcodeRow.matches (r : OpcodeRow) (w : Word) : Bool := w.toNat &&& r.mask == r.value

end Sys2Proof
end

