-- ==== Sys2Proof/Safety.lean ====
section
/-! DEFINITION. The terms the claims use: a safe run and its end, what an instruction leaves
unchanged, and the spec's words for a word in memory, an arithmetic result and a condition, written
with exact numbers so that a claim does not lean on the definitions it is about. -/

namespace Sys2Proof.Machine

/-! ### Runs -/

/-- The run of `n` steps meets no fault and no refusal (60_exceptions.md R231). Under `IRQ_MODEL = none`
it says something of the hardware only together with `NoInterrupt n s` (R236). -/
def SafeFor (n : Nat) (s : State) : Prop := ∃ t, Host.Core.run Sys2Proof.core n s = .next t

/-- At this instruction boundary the environment raises an interrupt request while I = 1, whatever
`IRQ_MODEL` is (60_exceptions.md R236). DESIGN CHOICE, unsafe: I = 0 masks every interrupt source, so a
request raised while I = 0 breaks no premise here. R236 calls this a premise of its own, since the
source names no non-maskable interrupt and does not exclude one (assumption log 29). -/
abbrev RequestWhileEnabled (s : State) : Prop :=
  s.flags.i = true ∧ s.irqOffers.head? = some true

/-- The premise `NoInterrupt` of a run of `n` steps: during the run, the environment raises no
interrupt request while I = 1 (60_exceptions.md R236). It is asked at every boundary of the run, of what
the environment offers there, under either `IRQ_MODEL`. That a run with I = 0 throughout meets it is
the model's choice: no interrupt is non-maskable (assumption log 29). -/
def NoInterrupt (n : Nat) (s : State) : Prop :=
  ∀ k t, k < n → Host.Core.run Sys2Proof.core k s = .next t → ¬ RequestWhileEnabled t

/-- The state under another `IRQ_MODEL`. -/
def State.withIrqModel (s : State) (m : IrqModel) : State :=
  { s with cfg := { s.cfg with irqModel := m } }

/-- The end of a run: the word at `pc` is a `jmprel` whose target is its own address, by `REL_BASE`
0xEFFF or 0xE000 (70_reset_and_hazards.md R254). -/
def EndOfRun (s : State) : Prop :=
  match s.cfg.relBase with
  | .next => readProg s s.pc = .next 0xEFFF
  | .self => readProg s s.pc = .next 0xE000

/-- Both memories are in canonical form. -/
def MemoryForm (s : State) : Prop := Memory.wf s.dmem = true ∧ Memory.wf s.pmem = true

/-! ### Frames -/

/-- What an instruction leaves as it was: every register but those listed, every byte of data memory
but those at the addresses listed, all of program memory, the configuration and the environment. -/
structure Frame (written : List Reg) (stored : List Word) (s t : State) : Prop where
  regs : ∀ r, r ∉ written → t.get r = s.get r
  bytes : ∀ a, a ∉ stored → readByte t a = readByte s a
  program : ∀ a, readProg t a = readProg s a
  cfg : t.cfg = s.cfg
  offers : t.irqOffers = s.irqOffers

/-- No flag is written and no free bit is drawn. -/
def KeepsFlags (s t : State) : Prop := t.flags = s.flags ∧ t.draws = s.draws

/-- I, AC and AZ are as before: an update of SR alone (00_scope.md R10). -/
def KeepsIAndAR (s t : State) : Prop :=
  t.flags.i = s.flags.i ∧ t.flags.ac = s.flags.ac ∧ t.flags.az = s.flags.az

/-- The register gets the value, `pc` goes `len` words on, and nothing else changes. -/
def WritesReg (s t : State) (rd : Reg) (v : Word) (len : Word) : Prop :=
  t.get rd = v ∧ t.pc = s.pc + len ∧ KeepsFlags s t ∧ Frame [rd] [] s t

/-! ### Words in data memory (20_memory.md R50, R53) -/

/-- The word `v` is made of the byte at the lower address and the byte after it. -/
def WordOfBytes (o : ByteOrder) (lower upper : Byte) (v : Word) : Prop :=
  match o with
  | .little => v.toNat = lower.toNat + 256 * upper.toNat
  | .big => v.toNat = 256 * lower.toNat + upper.toNat

/-- A word access at `a` is performed at the even address `p` (R53). -/
def PerformedAt (s : State) (a p : Word) : Prop :=
  (a.toNat % 2 = 0 ∧ p = a) ∨
  (a.toNat % 2 = 1 ∧ s.cfg.misaligned = .clearBit0 ∧ p.toNat + 1 = a.toNat)

/-- The two bytes from `p` up hold the word `v`. -/
def HoldsWord (s : State) (p : Word) (v : Word) : Prop :=
  ∃ lower upper, readByte s p = .next lower ∧ readByte s (p + 1) = .next upper ∧
    WordOfBytes s.cfg.byteOrder lower upper v

/-- The two bytes from `p` up lie inside data memory (R55). -/
abbrev WordFits (s : State) (p : Word) : Prop := p.toNat + 2 ≤ s.cfg.dmemBytes

/-- A store of `v` at `p`: the two bytes hold it, `pc` goes `len` words on, and nothing else
changes. -/
def StoresWord (s t : State) (p : Word) (v : Word) (len : Word) : Prop :=
  HoldsWord t p v ∧ t.pc = s.pc + len ∧ KeepsFlags s t ∧ Frame [] [p, p + 1] s t

/-- A store of bits 7:0 of `v` at the byte `a`. -/
def StoresByte (s t : State) (a : Word) (v : Word) (len : Word) : Prop :=
  (∃ b, readByte t a = .next b ∧ b.toNat = v.toNat % 256) ∧
    t.pc = s.pc + len ∧ KeepsFlags s t ∧ Frame [] [a] s t

/-- A call: the return address stands at `p`, SP is two lower, `pc` is the target. -/
def Calls (s t : State) (p : Word) (target : Word) (len : Word) : Prop :=
  t.pc = target ∧ t.get .sp = s.get .sp - 2 ∧ HoldsWord t p (s.pc + len) ∧ KeepsFlags s t ∧
    Frame [.sp] [p, p + 1] s t

/-! ### Arithmetic in exact numbers (10_state.md R26, R27, R29) -/

/-- Z and S say of the result that it is 0, and that bit 15 is set. -/
def ZeroAndSign (r : Word) (z s : Bool) : Prop :=
  (z = true ↔ r.toNat = 0) ∧ (s = true ↔ 32768 ≤ r.toNat)

/-- The sum does not fit a signed 16-bit word. -/
def SignedOverflow (x : Int) : Prop := x < -32768 ∨ 32767 < x

/-- The result, carry and overflow of `a + b + cin`. -/
def IsSum (a b : Word) (cin : Nat) (r : Word) (c v : Bool) : Prop :=
  r.toNat = (a.toNat + b.toNat + cin) % 65536 ∧
  (c = true ↔ 65536 ≤ a.toNat + b.toNat + cin) ∧
  (v = true ↔ SignedOverflow (a.toInt + b.toInt + cin))

/-- The result, carry (no borrow) and overflow of `a - b - bin`. -/
def IsDifference (a b : Word) (bin : Nat) (r : Word) (c v : Bool) : Prop :=
  (r.toNat : Int) = ((a.toNat : Int) - b.toNat - bin) % 65536 ∧
  (c = true ↔ b.toNat + bin ≤ a.toNat) ∧
  (v = true ↔ SignedOverflow (a.toInt - b.toInt - bin))

/-- The number of a flag. -/
def flagNat (b : Bool) : Nat := if b then 1 else 0

/-- The new AZ after `addc` or `subc`, by `AZ_CHAIN` (10_state.md R30). -/
def ChainedAZ (chain : Bool) (oldAZ : Bool) (r : Word) (newAZ : Bool) : Prop :=
  newAZ = true ↔ r.toNat = 0 ∧ (chain = true → oldAZ = true)

/-- C and V after a logical instruction (10_state.md R28). Under `draw` they are the next two free
bits, C's first, and no other setting draws: that the draws are numbered is the model's choice
(assumption log 6), and of a free bit's value nothing is said. -/
def LogicCVOf (s t : State) : Prop :=
  match s.cfg.logicCV with
  | .draw => t.flags.c = Config.freeBit s.draws ∧ t.flags.v = Config.freeBit (s.draws + 1) ∧
      t.draws = s.draws + 2
  | .unchanged => t.flags.c = s.flags.c ∧ t.flags.v = s.flags.v ∧ t.draws = s.draws
  | .cleared => t.flags.c = false ∧ t.flags.v = false ∧ t.draws = s.draws

/-- A logical instruction's effect: the result in Rd, Z and S from it, C and V by `LOGIC_CV`, and
nothing else but `pc`. -/
def LogicEffect (s t : State) (rd : Reg) (r : Word) : Prop :=
  t.get rd = r ∧ t.pc = s.pc + 1 ∧ ZeroAndSign r t.flags.z t.flags.s ∧ LogicCVOf s t ∧
    KeepsIAndAR s t ∧ Frame [rd] [] s t

/-- An SR and AR updating instruction's other effects: Z, S, AC of the result, I as before. -/
def ArithEffect (s t : State) (rd : Reg) (r : Word) : Prop :=
  t.get rd = r ∧ t.pc = s.pc + 1 ∧ ZeroAndSign r t.flags.z t.flags.s ∧
    t.flags.ac = t.flags.c ∧ t.flags.i = s.flags.i ∧ t.draws = s.draws ∧ Frame [rd] [] s t

/-! ### Program addresses and conditions -/

/-- The target of a PC-relative offset of `k` words (30_encoding.md R90). -/
def RelativeTarget (s : State) (k : Int) (target : Word) : Prop :=
  match s.cfg.relBase with
  | .next => (target.toNat : Int) = ((s.pc.toNat : Int) + 1 + k) % 65536
  | .self => (target.toNat : Int) = ((s.pc.toNat : Int) + k) % 65536

/-- What a condition code tests of the SR flags (10_state.md R31, the column "cond(cc)"). -/
def CondTests (cc : Cond) (f : Flags) : Prop :=
  match cc with
  | .eq => f.z = true
  | .ne => f.z = false
  | .uge => f.c = true
  | .ult => f.c = false
  | .lt => f.s ≠ f.v
  | .ge => f.s = f.v
  | .ugt => f.c = true ∧ f.z = false
  | .gt => f.s = f.v ∧ f.z = false

/-- What a condition code says of the two operands of a compare, left operand first (R31). -/
def CondRelates (cc : Cond) (a b : Word) : Prop :=
  match cc with
  | .eq => a = b
  | .ne => a ≠ b
  | .uge => b.toNat ≤ a.toNat
  | .ult => a.toNat < b.toNat
  | .lt => a.toInt < b.toInt
  | .ge => b.toInt ≤ a.toInt
  | .ugt => b.toNat < a.toNat
  | .gt => b.toInt < a.toInt

/-- The eight `br%cc`. -/
def branchInstr (cc : Cond) (a : BitVec 10) : Instr :=
  match cc with
  | .eq => .breq a
  | .ne => .brne a
  | .uge => .bruge a
  | .ult => .brult a
  | .lt => .brlt a
  | .ge => .brge a
  | .ugt => .brugt a
  | .gt => .brgt a

/-- The eight `sel%cc`. -/
def selectInstr (cc : Cond) (rn rs rd : Reg) : Instr :=
  match cc with
  | .eq => .seleq rn rs rd
  | .ne => .selne rn rs rd
  | .uge => .seluge rn rs rd
  | .ult => .selult rn rs rd
  | .lt => .sellt rn rs rd
  | .ge => .selge rn rs rd
  | .ugt => .selugt rn rs rd
  | .gt => .selgt rn rs rd

/-- The eight `set%cc`. -/
def setInstr (cc : Cond) (x : BitVec 3) (rd : Reg) : Instr :=
  match cc with
  | .eq => .seteq x rd
  | .ne => .setne x rd
  | .uge => .setuge x rd
  | .ult => .setult x rd
  | .lt => .setlt x rd
  | .ge => .setge x rd
  | .ugt => .setugt x rd
  | .gt => .setgt x rd

/-- The bit of the SRAR word at a position, where the layout's positions are distinct (R25, R184). -/
def srarBit (l : SrarLayout) (f : Flags) (j : Nat) : Bool :=
  if j = l.i.val then f.i
  else if j = l.v.val then f.v
  else if j = l.s.val then f.s
  else if j = l.c.val then f.c
  else if j = l.z.val then f.z
  else if j = l.ac.val then f.ac
  else if j = l.az.val then f.az
  else false

/-! ### Which instruction accesses what (10_state.md R23, 20_memory.md R57) -/

/-- The address of the byte an `ld.zb` or `ld.sb` reads. -/
def byteLoadAt (i : Instr) (s : State) : Option Word :=
  match i with
  | .movs8mr k rs _ => some (eaImm s rs k)
  | .mov8znr rn rs _ => some (eaReg s rn rs)
  | .mov8snr rn rs _ => some (eaReg s rn rs)
  | .mov8zar _ _ a => some a
  | .mov8sar _ _ a => some a
  | .mov8zMr rs _ k => some (eaWord s rs k)
  | .mov8sMr rs _ k => some (eaWord s rs k)
  | _ => none

/-- The address of the byte an `st.b` writes. -/
def byteStoreAt (i : Instr) (s : State) : Option Word :=
  match i with
  | .mov8rm k rs _ => some (eaImm s rs k)
  | .mov8rn rn rs _ => some (eaReg s rn rs)
  | .mov8ra _ _ a => some a
  | .mov8rM rs _ k => some (eaWord s rs k)
  | _ => none

/-- The address of the word an `ld.w`, `pop` or `ret` reads, and of the first of the two that `reti`
reads where it runs; `pop sp` is refused before. -/
def wordLoadAt (i : Instr) (s : State) : Option Word :=
  match i with
  | .mov16mr k rs _ => some (eaImm s rs k)
  | .mov16nr rn rs _ => some (eaReg s rn rs)
  | .mov16ar _ _ a => some a
  | .mov16Mr rs _ k => some (eaWord s rs k)
  | .pop _ rd => if rd = .sp then none else some (s.get .sp)
  | .ret _ => some (s.get .sp)
  | .reti _ =>
    match s.cfg.irqModel with
    | .noDelivery => none
    | .candidateA _ => some (s.get .sp)
  | _ => none

/-- The address of the word an `st.w`, `push` or call writes; `push sp` is refused before. -/
def wordStoreAt (i : Instr) (s : State) : Option Word :=
  match i with
  | .mov16rm k rs _ => some (eaImm s rs k)
  | .mov16rn rn rs _ => some (eaReg s rn rs)
  | .mov16ra _ _ a => some a
  | .mov16rM rs _ k => some (eaWord s rs k)
  | .push _ rd => if rd = .sp then none else some (s.get .sp - 2)
  | .callrel _ => some (s.get .sp - 2)
  | .calladr _ _ => some (s.get .sp - 2)
  | .callreg _ _ => some (s.get .sp - 2)
  | _ => none

/-- The register an instruction's field names as its destination. -/
def destOf (i : Instr) : Option Reg :=
  match i with
  | .movkr _ rd => some rd
  | .addkr _ rd => some rd
  | .subkr _ rd => some rd
  | .andkr _ rd => some rd
  | .orkr _ rd => some rd
  | .xorkr _ rd => some rd
  | .mov16mr _ _ rd => some rd
  | .movs8mr _ _ rd => some rd
  | .addrrr _ _ rd => some rd
  | .adcrrr _ _ rd => some rd
  | .subrrr _ _ rd => some rd
  | .subcrrr _ _ rd => some rd
  | .orrrr _ _ rd => some rd
  | .andrrr _ _ rd => some rd
  | .xorrrr _ _ rd => some rd
  | .mov16nr _ _ rd => some rd
  | .mov8znr _ _ rd => some rd
  | .mov8snr _ _ rd => some rd
  | .seleq _ _ rd => some rd
  | .selne _ _ rd => some rd
  | .seluge _ _ rd => some rd
  | .selult _ _ rd => some rd
  | .sellt _ _ rd => some rd
  | .selge _ _ rd => some rd
  | .selugt _ _ rd => some rd
  | .selgt _ _ rd => some rd
  | .seteq _ rd => some rd
  | .setne _ rd => some rd
  | .setuge _ rd => some rd
  | .setult _ rd => some rd
  | .setlt _ rd => some rd
  | .setge _ rd => some rd
  | .setugt _ rd => some rd
  | .setgt _ rd => some rd
  | .pop _ rd => some rd
  | .movSr _ rd => some rd
  | .movKr _ rd _ => some rd
  | .mov16ar _ rd _ => some rd
  | .mov8zar _ rd _ => some rd
  | .mov8sar _ rd _ => some rd
  | .movrr _ rd => some rd
  | .zext _ rd => some rd
  | .sext _ rd => some rd
  | .bswap _ rd => some rd
  | .sextw _ rd => some rd
  | .mov16pr _ rd => some rd
  | .lsr _ rd => some rd
  | .lsl _ rd => some rd
  | .asr _ rd => some rd
  | .neg _ rd => some rd
  | .notrr _ rd => some rd
  | .movMr _ rd _ => some rd
  | .mov16Mr _ rd _ => some rd
  | .mov8zMr _ rd _ => some rd
  | .mov8sMr _ rd _ => some rd
  | _ => none

/-- The mask of a first word's "x" bits: T7 and T9 bits 5:3, T8 bits 5:0 (30_encoding.md R101, with
the patterns told apart as R82 says). -/
def xMask (w : Word) : Word :=
  if w.toNat / 8192 = 0 then
    if w.toNat / 64 % 16 = 7 then 0x0038
    else if w.toNat / 64 % 16 = 6 then 0x003F
    else if w.toNat / 128 % 8 = 2 then 0x0038
    else 0x0000
  else 0x0000

/-- The state with other offers of the environment (60_exceptions.md R237). -/
def State.withOffers (s : State) (l : List Bool) : State := { s with irqOffers := l }

end Sys2Proof.Machine
end

