-- ==== Sys2Proof/Certificates/Slice0/Obligations.lean ====
section
/-! DEFINITION. The statements for the provers, in the order of OBLIGATIONS.json. The words they use
stand in Safety.lean; a statement holds for every value of the parameters of 00_scope.md R5 unless
it names one. -/

open Sys2Proof Sys2Proof.Machine

/-! ### Encoding -/

/-- Decoding the words of any instruction that is well-formed under the setting of `STRICT_X` gives
that instruction back, with the words after it, whatever the operands (30_encoding.md R83 to R95). -/
def Obligations.DecodeOfEncodeIsIdentity : Prop :=
  ∀ (strict : Bool) (i : Instr) (rest : List Word), i.wellFormed strict = true →
    decodeWords strict (encode i ++ rest) = .ok (i, rest)

/-- Whatever words the decoder accepts are the words the encoder writes for what it decoded, and that
instruction is well-formed: no word has two readings and no bit is dropped (R82, R103). -/
def Obligations.EncodeOfDecodeIsIdentity : Prop :=
  ∀ (strict : Bool) (ws rest : List Word) (i : Instr), decodeWords strict ws = .ok (i, rest) →
    encode i ++ rest = ws ∧ i.wellFormed strict = true

/-- The decoder agrees with the opcode map of R103 and R100: for each of the 103 rows, a first word
matches the row exactly where it decodes to the row's instruction, whatever the second word, and the
instruction then has the row's number of words; and every first word matches a row. R100 gives a
reserved row no number of words and no length is to be guessed for it: that the 19 reserved rows have
one word, and their constructors length 1, is the model's choice (assumption log 21), which nothing but
this count shows, since a reserved word is refused before its length could matter (R81). -/
def Obligations.OpcodeMapMatchesDecoder : Prop :=
  (∀ row ∈ opcodeMap, ∀ w k : Word,
    (row.matches w = true ↔ (decode w k).mnemonic = row.name) ∧
    (row.matches w = true → (decode w k).length = row.words)) ∧
  ∀ w : Word, ∃ row ∈ opcodeMap, row.matches w = true

/-- The first word alone tells which instruction it is and its length; the length is two words
exactly for the 13 instructions listed, and one word for every other instruction (R81). The clauses
range over every first word: that a reserved word too counts as one word is the model's choice
(assumption log 21), where R81 says that its length never matters and R100 that none is to be
guessed. -/
def Obligations.LengthFollowsFirstWord : Prop :=
  ∀ w k k' : Word,
    (decode w k).mnemonic = (decode w k').mnemonic ∧
    ((decode w k).length = 2 ↔ twoWords w = true) ∧
    ((decode w k).length = 1 ↔ twoWords w = false) ∧
    (twoWords w = true ↔ (decode w k).mnemonic ∈
      ["calladr", "movKr", "mov16ar", "mov8zar", "mov8sar", "mov16ra", "mov8ra", "movMr",
        "mov16Mr", "mov8zMr", "mov8sMr", "mov16rM", "mov8rM"])

/-- One word of each pattern, written out from the encoding the spec gives, decodes to the
instruction it stands for: the NOP of R97 and the example words of R110, R112, R120, R130, R140,
R160, R161, R170, R190, R204 and R220. -/
def Obligations.SampleWordsDecode : Prop :=
  decodeWords false [0b0000000000000000] = .ok (.movrr .r0 .r0, []) ∧
  decodeWords false [0b1110000000000101] = .ok (.jmprel 5, []) ∧
  decodeWords false [0b1100011111111101] = .ok (.brne 0x3FD, []) ∧
  decodeWords false [0b1000011111111010] = .ok (.movkr 0xFF .r2, []) ∧
  decodeWords false [0b0100000010001010] = .ok (.mov16mr 2 .r1 .r2, []) ∧
  decodeWords false [0b0010000001010011] = .ok (.addrrr .r1 .r2 .r3, []) ∧
  decodeWords false [0b0001111001010011] = .ok (.selgt .r1 .r2 .r3, []) ∧
  decodeWords false [0b0000110111111011] = .ok (.setult 7 .r3, []) ∧
  decodeWords false [0b0000000110000000] = .ok (.ret 0, []) ∧
  decodeWords false [0b0000000101000110, 0xBEEF] = .ok (.movKr 0 .r6 0xBEEF, []) ∧
  decodeWords false [0b0001000000001010] = .ok (.bswap .r1 .r2, []) ∧
  decodeWords false [0b0000000010111111, 0xFFFC] = .ok (.movMr .sp .sp 0xFFFC, [])

/-- A first word that matches one of the 19 reserved rows is refused as a reserved encoding, by the
meaning whatever the state, and by the step where the environment raises no interrupt request while
I = 1 (the premise NoInterrupt of 60_exceptions.md R236); each reserved constructor is refused so; and
together with the instruction rows the 19 rows cover all 65536 first words (R100). -/
def Obligations.ReservedWordsRefused : Prop :=
  (reservedMap.length = 19 ∧ ∀ w : Word,
    (∃ row ∈ instructionMap, row.matches w = true) ∨ (∃ row ∈ reservedMap, row.matches w = true)) ∧
  (∀ row ∈ reservedMap, ∀ (w k : Word) (s : State), row.matches w = true →
    exec (decode w k) s = .refused .reservedEncoding ∧
    (NoInterrupt 1 s → readProg s s.pc = .next w → step s = .refused .reservedEncoding)) ∧
  ∀ s : State,
    (∀ k rd, exec (.reservedT3_111 k rd) s = .refused .reservedEncoding) ∧
    (∀ rn rs rd, exec (.reservedT5_0111 rn rs rd) s = .refused .reservedEncoding) ∧
    (∀ rn rs rd, exec (.reservedT5_1000 rn rs rd) s = .refused .reservedEncoding) ∧
    (∀ rn rs rd, exec (.reservedT5_1110 rn rs rd) s = .refused .reservedEncoding) ∧
    (∀ rn rs rd, exec (.reservedT5_1111 rn rs rd) s = .refused .reservedEncoding) ∧
    (∀ x, exec (.reservedT8_100 x) s = .refused .reservedEncoding) ∧
    (∀ x, exec (.reservedT8_101 x) s = .refused .reservedEncoding) ∧
    (∀ x, exec (.reservedT8_110 x) s = .refused .reservedEncoding) ∧
    (∀ x rd, exec (.reservedT9_100_0 x rd) s = .refused .reservedEncoding) ∧
    (∀ x rd, exec (.reservedT9_101_0 x rd) s = .refused .reservedEncoding) ∧
    (∀ x rd, exec (.reservedT9_110_1 x rd) s = .refused .reservedEncoding) ∧
    (∀ x rd, exec (.reservedT9_111_1 x rd) s = .refused .reservedEncoding) ∧
    (∀ rs rd, exec (.reservedT10_110_00 rs rd) s = .refused .reservedEncoding) ∧
    (∀ rs rd, exec (.reservedT10_011_01 rs rd) s = .refused .reservedEncoding) ∧
    (∀ rs rd, exec (.reservedT10_100_01 rs rd) s = .refused .reservedEncoding) ∧
    (∀ rs rd, exec (.reservedT10_111_01 rs rd) s = .refused .reservedEncoding) ∧
    (∀ rs rd, exec (.reservedT10_110_10 rs rd) s = .refused .reservedEncoding) ∧
    (∀ rs rd, exec (.reservedT10_111_10 rs rd) s = .refused .reservedEncoding) ∧
    (∀ op rs rd, exec (.reservedT10_xxx_11 op rs rd) s = .refused .reservedEncoding)

/-- With `STRICT_X = false` every first word is accepted and its x bits (T7 bits 5:3, T8 bits 5:0, T9
bits 5:3) change nothing of what it does; the encoder writes an instruction's x bits where the pattern
has them and as they are given, so all of them 0 for an instruction whose x is 0, which is what an
assembler writes. With `STRICT_X = true` an instruction's word with any x bit set is refused, by the
decoder and, under the premise NoInterrupt (60_exceptions.md R236), by the step, and one with none set
is accepted (R101). -/
def Obligations.XBitsBySetting : Prop :=
  (∀ (w k : Word) (rest : List Word), ∃ r, decodeWords false (w :: k :: rest) = .ok r) ∧
  (∀ (w k : Word) (s : State),
    exec (decode w k) s = exec (decode (w &&& ~~~(xMask w)) k) s ∧
    twoWords w = twoWords (w &&& ~~~(xMask w))) ∧
  (∀ (i : Instr) (w : Word) (rest : List Word), (∀ row ∈ reservedMap, i.mnemonic ≠ row.name) →
    encode i = w :: rest →
      (xMask w = 0x003F → w.toNat % 64 = i.xBits.toNat) ∧
      (xMask w = 0x0038 → w.toNat / 8 % 8 = i.xBits.toNat) ∧
      (i.xBits = 0 ↔ w &&& xMask w = 0)) ∧
  (∀ (w : Word) (rest : List Word), (∃ row ∈ instructionMap, row.matches w = true) →
    w &&& xMask w ≠ 0 → decodeWords true (w :: rest) = .error .nonzeroXBits) ∧
  (∀ (w k : Word) (rest : List Word), w &&& xMask w = 0 →
    ∃ r, decodeWords true (w :: k :: rest) = .ok r) ∧
  ∀ (w : Word) (s : State), (∃ row ∈ instructionMap, row.matches w = true) → w &&& xMask w ≠ 0 →
    s.cfg.strictX = true → NoInterrupt 1 s → readProg s s.pc = .next w →
      step s = .refused .nonzeroXBits

/-! ### The step -/

/-- Where no interrupt entry is due and the words at `pc` decode to an instruction, the step is `exec`
of that instruction on the state with this instruction boundary passed. None is due under
`IRQ_MODEL = none`, and none where the environment raises no request while I = 1. Passing a boundary
changes the environment's offers alone, under either `IRQ_MODEL`: an offer is held while I = 0, one
made while I = 1 is behind, a boundary without an offer is passed, and an environment that offers
nothing, the empty list, goes on offering nothing (20_memory.md R56, R60, 30_encoding.md R81, 60_exceptions.md
R236, R237; the list of offers is the model's, assumption log 18). -/
def Obligations.StepRunsDecodedInstruction : Prop :=
  ∀ s : State,
    (s.cfg.irqModel = .noDelivery ∨ NoInterrupt 1 s → interruptDue s = none) ∧
    (interruptDue s = none →
      (∀ w i, readProg s s.pc = .next w → decodeWords s.cfg.strictX [w] = .ok (i, []) →
        step s = exec i (passOffer s)) ∧
      (∀ w k i, readProg s s.pc = .next w → readProg s (s.pc + 1) = .next k →
        decodeWords s.cfg.strictX [w, k] = .ok (i, []) → step s = exec i (passOffer s))) ∧
    (s.irqOffers = [] → passOffer s = s) ∧
    (∀ rest, s.irqOffers = true :: rest → s.flags.i = false → passOffer s = s) ∧
    (∀ rest, s.irqOffers = true :: rest → s.flags.i = true → passOffer s = s.withOffers rest) ∧
    (∀ rest, s.irqOffers = false :: rest → passOffer s = s.withOffers rest)

/-- A fetch of a program word outside the loaded image has no successor: the first word, and the
second word of a two-word instruction, under the premise NoInterrupt (70_reset_and_hazards.md R252,
20_memory.md R56, 60_exceptions.md R236). -/
def Obligations.FetchOfUnloadedWordFaults : Prop :=
  ∀ s : State, NoInterrupt 1 s →
    (s.pc.toNat < s.cfg.pmemWords → Memory.find s.pmem s.pc.toNat = none →
      step s = .fault .programWordNoValue) ∧
    (∀ w, readProg s s.pc = .next w → (decode w 0).wellFormed s.cfg.strictX = true →
      twoWords w = true → (s.pc + 1).toNat < s.cfg.pmemWords →
      Memory.find s.pmem (s.pc + 1).toNat = none → step s = .fault .programWordNoValue)

/-- A run has ended at a `jmprel` whose target is its own address: that is the word 0xEFFF (0xE000
with `REL_BASE = self`) and no other. Under the premise NoInterrupt (60_exceptions.md R236) the step
there leaves every piece of the machine's state as it was, and so does every run from there; the
environment's offers, where it has any, pass their boundaries, and with none left the state is the very
same. The offers are the model's own field (assumption log 18), and the premise rests on the model's
choice that I = 0 masks every source (log 29). A branch to itself whose condition holds and a `jmp Rd` with Rd holding its own
address leave every piece of state as it was too (70_reset_and_hazards.md R254). -/
def Obligations.EndOfRunIsFixedPoint : Prop :=
  (∀ s : State, NoInterrupt 1 s → EndOfRun s → step s = .next (passOffer s) ∧
    (∃ l, step s = .next (s.withOffers l)) ∧ (s.irqOffers = [] → step s = .next s)) ∧
  (∀ (n : Nat) (s : State), NoInterrupt n s → EndOfRun s →
    (∃ l, Host.Core.run Sys2Proof.core n s = .next (s.withOffers l)) ∧
    (s.irqOffers = [] → Host.Core.run Sys2Proof.core n s = .next s)) ∧
  (∀ (s : State) (w k : Word),
    (∃ a : BitVec 12, decode w k = .jmprel a ∧ RelativeTarget s a.toInt s.pc) ↔
      (s.cfg.relBase = .next ∧ w = 0xEFFF ∨ s.cfg.relBase = .self ∧ w = 0xE000)) ∧
  (∀ (s : State) (cc : Cond) (a : BitVec 10), CondTests cc s.flags →
    RelativeTarget s a.toInt s.pc → exec (branchInstr cc a) s = .next s) ∧
  ∀ (s : State) (x : BitVec 3) (rd : Reg), s.get rd = s.pc → exec (.jmpreg x rd) s = .next s

/-- Under `IRQ_MODEL = none` the environment's offers of a request influence nothing: a step from a
state with other offers has the same outcome, but for those offers, which pass their boundary. That is
sound under the premise NoInterrupt: where the environment raises no request while I = 1 at any
boundary of a run of the default model, candidate_A runs through the same states, offers and all
(60_exceptions.md R236, R237; the list of offers, and that one is held while I = 0, are the model's,
assumption log 18). -/
def Obligations.DefaultModelIgnoresEnvironment : Prop :=
  (∀ (s : State) (l : List Bool), s.cfg.irqModel = .noDelivery →
    step (s.withOffers l) =
      andThen (step s) fun t => .next (t.withOffers (passOffer (s.withOffers l)).irqOffers)) ∧
  ∀ (n : Nat) (s t : State), NoInterrupt n (s.withIrqModel .noDelivery) →
    Host.Core.run Sys2Proof.core n (s.withIrqModel .noDelivery) = .next t →
      Host.Core.run Sys2Proof.core n s = .next (t.withIrqModel s.cfg.irqModel)

/-- No instruction's behaviour reads I: but for the one that copies SRAR and the four that write I,
an instruction does the same whatever I is, and leaves it (10_state.md R35). -/
def Obligations.InterruptFlagIsInert : Prop :=
  ∀ (i : Instr) (s : State) (b : Bool), i.mnemonic ∉ ["movSr", "movrS", "dint", "eint", "reti"] →
    exec i (s.setI b) = andThen (exec i s) fun t => .next (t.setI b)

/-! ### Interrupts -/

/-- Under candidate_A an interrupt is due exactly where I = 1 and the environment offers a request;
the step then pushes the address of the instruction not yet executed and, below it, the word of SRAR,
clears I alone of the flags, goes to `IRQ_VECTOR`, and takes the request from the environment; nothing
else changes. A push that is refused (R53, R55) refuses the entry. (60_exceptions.md R237, the spec's
own construction; 40_relative_jump_call_branch.md R113.) The model's own: the offers as a list
(assumption log 18); that a push is refused where one of its two bytes is outside data memory, the
second alone included (log 16); and, with `MISALIGNED_WORD = clear_bit0` and an odd SP, that each push
stands one below its address while SP takes the odd value, four lower (log 27). -/
def Obligations.InterruptEntrySavesAndVectors : Prop :=
  (∀ (s : State) (vector : Word), interruptDue s = some vector ↔
    s.cfg.irqModel = .candidateA vector ∧ s.flags.i = true ∧ s.irqOffers.head? = some true) ∧
  (∀ (s : State) (vector : Word), interruptDue s = some vector →
    ((s.get .sp).toNat % 2 = 1 → s.cfg.misaligned = .refuse → step s = .refused .misalignedWord) ∧
    ∀ p q, PerformedAt s (s.get .sp - 2) p → PerformedAt s (s.get .sp - 4) q →
      ¬ (WordFits s p ∧ WordFits s q) → step s = .refused .addressOutsideMemory) ∧
  ∀ (s : State) (vector p q : Word), interruptDue s = some vector →
    PerformedAt s (s.get .sp - 2) p → WordFits s p →
    PerformedAt s (s.get .sp - 4) q → WordFits s q →
      ∃ t, step s = .next t ∧ HoldsWord t p s.pc ∧
        (∃ w : Word, HoldsWord t q w ∧ (s.cfg.srarLayout.distinct = true →
          ∀ j, j < 16 → w.getLsbD j = srarBit s.cfg.srarLayout s.flags j)) ∧
        t.get .sp = s.get .sp - 4 ∧ t.flags = { s.flags with i := false } ∧ t.draws = s.draws ∧
        t.pc = vector ∧ t.irqOffers = s.irqOffers.tail ∧
        Frame [.sp] [p, p + 1, q, q + 1] (passOffer s) t

/-- Under candidate_A `reti` takes the seven flags from the word SP points at, through
`SRAR_LAYOUT`, and `pc` from the word above it; SP is four higher, and nothing else changes. Where a
byte of that second word is outside data memory it is refused (20_memory.md R55), and where one holds
no value it has no successor (70_reset_and_hazards.md R252); the first word's stops are those of any
word load. (60_exceptions.md R237, the spec's own construction; 46_zero_operand_call_absolute.md R172.)
The model's own: that both bytes are needed, and that the lower one is tested first (assumption log 16
and 22); and, with `MISALIGNED_WORD = clear_bit0` and an odd SP, that each word is read one below SP
while SP stays odd (log 27). -/
def Obligations.InterruptReturnRestores : Prop :=
  ∀ (s : State) (x : BitVec 6) (vector p q w : Word), s.cfg.irqModel = .candidateA vector →
    PerformedAt s (s.get .sp) p → HoldsWord s p w → PerformedAt s (s.get .sp + 2) q →
    (s.cfg.dmemBytes ≤ q.toNat ∨ ¬ WordFits s q ∧ Memory.find s.dmem q.toNat ≠ none →
      exec (.reti x) s = .refused .addressOutsideMemory) ∧
    (q.toNat < s.cfg.dmemBytes ∧ Memory.find s.dmem q.toNat = none ∨
      WordFits s q ∧ Memory.find s.dmem (q + 1).toNat = none →
        exec (.reti x) s = .fault .dataByteNoValue) ∧
    ∀ a, HoldsWord s q a →
      ∃ t, exec (.reti x) s = .next t ∧ t.pc = a ∧ t.get .sp = s.get .sp + 4 ∧
        t.flags.i = w.getLsbD s.cfg.srarLayout.i.val ∧
        t.flags.v = w.getLsbD s.cfg.srarLayout.v.val ∧
        t.flags.s = w.getLsbD s.cfg.srarLayout.s.val ∧
        t.flags.c = w.getLsbD s.cfg.srarLayout.c.val ∧
        t.flags.z = w.getLsbD s.cfg.srarLayout.z.val ∧
        t.flags.ac = w.getLsbD s.cfg.srarLayout.ac.val ∧
        t.flags.az = w.getLsbD s.cfg.srarLayout.az.val ∧
        t.draws = s.draws ∧ Frame [.sp] [] s t

/-- Under candidate_A, with a layout of distinct positions, a `reti` right after an interrupt entry
resumes the instruction not yet executed with every register and every flag, I among them, as it was
(60_exceptions.md R237, the spec's own construction); at an odd SP, with `MISALIGNED_WORD =
clear_bit0`, by the model's choice of what SP becomes (assumption log 27). -/
def Obligations.EntryThenReturnRestores : Prop :=
  ∀ (s t : State) (x : BitVec 6) (vector : Word), interruptDue s = some vector →
    s.cfg.srarLayout.distinct = true → step s = .next t →
      ∃ u, exec (.reti x) t = .next u ∧ u.pc = s.pc ∧ u.flags = s.flags ∧
        ∀ r, u.get r = s.get r

/-- Without interrupts (`IRQ_MODEL = none`) `reti` is refused: the spec gives it no meaning there
(46_zero_operand_call_absolute.md R172). -/
def Obligations.RetiRefusedWithoutInterrupts : Prop :=
  ∀ (s : State) (x : BitVec 6), s.cfg.irqModel = .noDelivery →
    exec (.reti x) s = .refused .retiNotSpecified

/-! ### Jumps, calls and returns -/

/-- `jmprel` goes to the target of its 12-bit signed offset, by `REL_BASE`, and changes nothing else
(40_relative_jump_call_branch.md R110, 30_encoding.md R90). -/
def Obligations.JmprelTarget : Prop :=
  ∀ (s : State) (a : BitVec 12), ∃ t, exec (.jmprel a) s = .next t ∧
    RelativeTarget s a.toInt t.pc ∧ KeepsFlags s t ∧ Frame [] [] s t

/-- `jmp Rd`: the word 0x0100 + Rd; `pc` becomes the value of Rd whole, and nothing else changes,
whatever the value and for SP as for any register (47_single_register_word_immediate.md R180). -/
def Obligations.JmpregTarget : Prop :=
  ∀ (s : State) (x : BitVec 3) (rd : Reg),
    encode (.jmpreg 0 rd) = [BitVec.ofNat 16 (0x0100 + rd.toBits.toNat)] ∧
    (∀ w k : Word, decode w k = .jmpreg x rd ↔
      w.toNat = 0x0100 + 8 * x.toNat + rd.toBits.toNat) ∧
    ∃ t, exec (.jmpreg x rd) s = .next t ∧ t.pc = s.get rd ∧ KeepsFlags s t ∧ Frame [] [] s t

/-- The three calls put the address of the next instruction (one word on, for `calladr` two) at the
word two below SP, take 2 from SP and go to their target: the relative one, the second word, the value
Rd had before the push (R111, R171, R181, R113). With `MISALIGNED_WORD = clear_bit0` and an odd SP the
word stands three below SP (20_memory.md R53), and that SP then becomes the odd SP - 2 is the model's
deduction (assumption log 27). -/
def Obligations.CallsPushReturnAddress : Prop :=
  ∀ (s : State) (p : Word), PerformedAt s (s.get .sp - 2) p → WordFits s p →
    (∀ a : BitVec 12, ∃ t target, exec (.callrel a) s = .next t ∧
      RelativeTarget s a.toInt target ∧ Calls s t p target 1) ∧
    (∀ x a, ∃ t, exec (.calladr x a) s = .next t ∧ Calls s t p a 2) ∧
    (∀ x rd, ∃ t, exec (.callreg x rd) s = .next t ∧ Calls s t p (s.get rd) 1)

/-- Each of the eight `br%cc` goes to the target of its 10-bit signed offset where its condition holds
of the SR flags and to the next word where it does not, and changes nothing else
(40_relative_jump_call_branch.md R112, 30_encoding.md R90, 10_state.md R31). -/
def Obligations.BranchByCondition : Prop :=
  ∀ (s : State) (cc : Cond) (a : BitVec 10),
    ∃ t, exec (branchInstr cc a) s = .next t ∧
      (CondTests cc s.flags → RelativeTarget s a.toInt t.pc) ∧
      (¬ CondTests cc s.flags → t.pc = s.pc + 1) ∧ KeepsFlags s t ∧ Frame [] [] s t

/-- `ret` takes `pc` from the word SP points at and adds 2 to SP; nothing else changes
(46_zero_operand_call_absolute.md R170, 40_relative_jump_call_branch.md R113). With `MISALIGNED_WORD =
clear_bit0` and an odd SP the word is the one below SP (20_memory.md R53), and that SP then becomes
the odd SP + 2 is the model's deduction (assumption log 27). -/
def Obligations.RetPopsProgramCounter : Prop :=
  ∀ (s : State) (x : BitVec 6) (p v : Word), PerformedAt s (s.get .sp) p → HoldsWord s p v →
    ∃ t, exec (.ret x) s = .next t ∧ t.pc = v ∧ t.get .sp = s.get .sp + 2 ∧
      KeepsFlags s t ∧ Frame [.sp] [] s t

/-- A `ret` right after any of the three calls goes to the word after the call, with every register
and every flag as before the call (R111, R170, R171, R181, R113); at an odd SP, with `MISALIGNED_WORD
= clear_bit0`, by the model's choice of what SP becomes (assumption log 27). -/
def Obligations.CallThenRetReturns : Prop :=
  ∀ (s t : State) (x : BitVec 6) (i : Instr), i.mnemonic ∈ ["callrel", "calladr", "callreg"] →
    exec i s = .next t →
      ∃ u, exec (.ret x) t = .next u ∧ u.pc = s.pc + BitVec.ofNat 16 i.length ∧
        u.flags = s.flags ∧ ∀ r, u.get r = s.get r

/-! ### The stack -/

/-- `push Rd`, for every register but SP, stores all of Rd at the word two below SP and takes 2 from
SP; nothing else changes (47_single_register_word_immediate.md R182, 40_relative_jump_call_branch.md
R113). With `MISALIGNED_WORD = clear_bit0` and an odd SP the word is three below SP (20_memory.md R53),
and that SP then becomes the odd SP - 2 is the model's deduction (assumption log 27). -/
def Obligations.PushStoresBelow : Prop :=
  ∀ (s : State) (x : BitVec 3) (rd : Reg) (p : Word), rd ≠ .sp →
    PerformedAt s (s.get .sp - 2) p → WordFits s p →
      ∃ t, exec (.push x rd) s = .next t ∧ HoldsWord t p (s.get rd) ∧
        t.get .sp = s.get .sp - 2 ∧ t.pc = s.pc + 1 ∧ KeepsFlags s t ∧
        Frame [.sp] [p, p + 1] s t

/-- `pop Rd`, for every register but SP, loads Rd with the word SP points at and adds 2 to SP; nothing
else changes (47_single_register_word_immediate.md R183, 40_relative_jump_call_branch.md R113). With
`MISALIGNED_WORD = clear_bit0` and an odd SP the word is the one below SP (20_memory.md R53), and that
SP then becomes the odd SP + 2 is the model's deduction (assumption log 27). -/
def Obligations.PopLoadsAndIncrements : Prop :=
  ∀ (s : State) (x : BitVec 3) (rd : Reg) (p v : Word), rd ≠ .sp →
    PerformedAt s (s.get .sp) p → HoldsWord s p v →
      ∃ t, exec (.pop x rd) s = .next t ∧ t.get rd = v ∧ t.get .sp = s.get .sp + 2 ∧
        t.pc = s.pc + 1 ∧ KeepsFlags s t ∧ Frame [rd, .sp] [] s t

/-- `push sp` and `pop sp` are refused in every state (R182, R183). -/
def Obligations.PushSpPopSpRefused : Prop :=
  ∀ (s : State) (x : BitVec 3), exec (.push x .sp) s = .refused .pushSpNotSpecified ∧
    exec (.pop x .sp) s = .refused .popSpNotSpecified

/-! ### Arithmetic, logic and flags -/

/-- `AddWithCarry` gives the 16-bit sum, carry where the unsigned sum reaches 65536, and overflow
where the signed sum is not the result read as signed, which is where it does not fit; as a
subtraction its carry says that there is no borrow (10_state.md R26). -/
def Obligations.AddWithCarryExact : Prop :=
  (∀ (a b : Word) (cin : Bool),
    IsSum a b (flagNat cin) (addWithCarry a b cin).result (addWithCarry a b cin).carry
      (addWithCarry a b cin).overflow ∧
    ((addWithCarry a b cin).overflow = true ↔
      a.toInt + b.toInt + flagNat cin ≠ (addWithCarry a b cin).result.toInt)) ∧
  ∀ a b : Word,
    IsDifference a b 0 (subWithCarry a b true).result (subWithCarry a b true).carry
      (subWithCarry a b true).overflow ∧
    ((subWithCarry a b true).carry = true ↔ b.toNat ≤ a.toNat)

/-- `cmpkr` sets Z, S, C and V from the exact difference of Rd and the sign-extended immediate, and
changes nothing else (41_alu_immediate.md R121, 10_state.md R27). -/
def Obligations.CompareImmediateFlags : Prop :=
  ∀ (s : State) (k : BitVec 8) (rd : Reg), ∃ (t : State) (b r : Word),
    exec (.cmpkr k rd) s = .next t ∧ b.toInt = k.toInt ∧
      IsDifference (s.get rd) b 0 r t.flags.c t.flags.v ∧ ZeroAndSign r t.flags.z t.flags.s ∧
      KeepsIAndAR s t ∧ t.draws = s.draws ∧ t.pc = s.pc + 1 ∧ Frame [] [] s t

/-- `cmprr` sets Z, S, C and V from the exact difference of Rd and Rs, or of Rs and Rd with
`CMPRR_LEFT = Rs`, and changes nothing else (48_two_register.md R201, 10_state.md R27). -/
def Obligations.CompareRegisterFlags : Prop :=
  ∀ (s : State) (rs rd : Reg), ∃ (t : State) (r : Word), exec (.cmprr rs rd) s = .next t ∧
    (s.cfg.cmprrLeft = .rd → IsDifference (s.get rd) (s.get rs) 0 r t.flags.c t.flags.v) ∧
    (s.cfg.cmprrLeft = .rs → IsDifference (s.get rs) (s.get rd) 0 r t.flags.c t.flags.v) ∧
    ZeroAndSign r t.flags.z t.flags.s ∧
    KeepsIAndAR s t ∧ t.draws = s.draws ∧ t.pc = s.pc + 1 ∧ Frame [] [] s t

/-- The condition codes: their numbers in the encodings of `br%cc`, `sel%cc` and `set%cc`; what each
tests, of the SR flags alone; `ule` and `le` as the opposites of `ugt` and `gt`; and after a compare
of two words each says of them, left operand first, what its description says (10_state.md R31). -/
def Obligations.ConditionsAfterCompare : Prop :=
  (∀ (n : Nat) (cc : Cond),
    ([Cond.eq, .ne, .uge, .ult, .lt, .ge, .ugt, .gt] : List Cond)[n]? = some cc →
      (∀ a, ∃ w, encode (branchInstr cc a) = [w] ∧ w.toNat / 1024 % 8 = n) ∧
      (∀ rn rs rd, ∃ w, encode (selectInstr cc rn rs rd) = [w] ∧ w.toNat / 1024 % 8 = n) ∧
      (∀ x rd, ∃ w, encode (setInstr cc x rd) = [w] ∧ w.toNat / 1024 % 8 = n)) ∧
  (∀ (cc : Cond) (f : Flags), condHolds cc f = true ↔ CondTests cc f) ∧
  (∀ (cc : Cond) (f g : Flags), f.z = g.z → f.c = g.c → f.s = g.s → f.v = g.v →
    condHolds cc f = condHolds cc g) ∧
  (∀ f : Flags, (condHolds .ugt f = false ↔ f.c = false ∨ f.z = true) ∧
    (condHolds .gt f = false ↔ f.s ≠ f.v ∨ f.z = true)) ∧
  (∀ (s t : State) (k : BitVec 8) (rd : Reg) (b : Word), exec (.cmpkr k rd) s = .next t →
    b.toInt = k.toInt →
      (∀ cc, condHolds cc t.flags = true ↔ CondRelates cc (s.get rd) b) ∧
      (condHolds .ugt t.flags = false ↔ (s.get rd).toNat ≤ b.toNat) ∧
      (condHolds .gt t.flags = false ↔ (s.get rd).toInt ≤ b.toInt)) ∧
  ∀ (s t : State) (rs rd : Reg) (cc : Cond), exec (.cmprr rs rd) s = .next t →
    (s.cfg.cmprrLeft = .rd →
      (condHolds cc t.flags = true ↔ CondRelates cc (s.get rd) (s.get rs))) ∧
    (s.cfg.cmprrLeft = .rs →
      (condHolds cc t.flags = true ↔ CondRelates cc (s.get rs) (s.get rd)))

/-- `addkr` and `addrrr` write the 16-bit sum, with the zero-extended immediate and of the two
registers; Z, S, C, V from it, AC as C, AZ as Z; nothing else changes (41_alu_immediate.md R122,
43_three_register_alu.md R140, 10_state.md R27, R29). -/
def Obligations.AddFormsResult : Prop :=
  ∀ s : State,
    (∀ (k : BitVec 8) (rd : Reg), ∃ (t : State) (b r : Word), exec (.addkr k rd) s = .next t ∧
      b.toNat = k.toNat ∧ IsSum (s.get rd) b 0 r t.flags.c t.flags.v ∧
      ArithEffect s t rd r ∧ (t.flags.az = true ↔ r.toNat = 0)) ∧
    (∀ rn rs rd : Reg, ∃ (t : State) (r : Word), exec (.addrrr rn rs rd) s = .next t ∧
      IsSum (s.get rn) (s.get rs) 0 r t.flags.c t.flags.v ∧
      ArithEffect s t rd r ∧ (t.flags.az = true ↔ r.toNat = 0))

/-- `subkr` and `subrrr` write the 16-bit difference; C and AC are 1 where there is no borrow; the
rest as for the additions (41_alu_immediate.md R123, 43_three_register_alu.md R142). -/
def Obligations.SubFormsResult : Prop :=
  ∀ s : State,
    (∀ (k : BitVec 8) (rd : Reg), ∃ (t : State) (b r : Word), exec (.subkr k rd) s = .next t ∧
      b.toNat = k.toNat ∧ IsDifference (s.get rd) b 0 r t.flags.c t.flags.v ∧
      ArithEffect s t rd r ∧ (t.flags.az = true ↔ r.toNat = 0)) ∧
    (∀ rn rs rd : Reg, ∃ (t : State) (r : Word), exec (.subrrr rn rs rd) s = .next t ∧
      IsDifference (s.get rn) (s.get rs) 0 r t.flags.c t.flags.v ∧
      ArithEffect s t rd r ∧ (t.flags.az = true ↔ r.toNat = 0))

/-- `adcrrr` writes the three-term sum with the old AC, `subcrrr` the difference less the borrow
1 - AC; carry and overflow are those of the exact expression; the new AZ says that the result is 0
and, with `AZ_CHAIN = true`, that the old AZ was 1 (43_three_register_alu.md R141, R143, 10_state.md
R30). -/
def Obligations.CarryChainResults : Prop :=
  ∀ (s : State) (rn rs rd : Reg),
    (∃ (t : State) (r : Word), exec (.adcrrr rn rs rd) s = .next t ∧
      IsSum (s.get rn) (s.get rs) (flagNat s.flags.ac) r t.flags.c t.flags.v ∧
      ArithEffect s t rd r ∧ ChainedAZ s.cfg.azChain s.flags.az r t.flags.az) ∧
    (∃ (t : State) (r : Word), exec (.subcrrr rn rs rd) s = .next t ∧
      IsDifference (s.get rn) (s.get rs) (1 - flagNat s.flags.ac) r t.flags.c t.flags.v ∧
      ArithEffect s t rd r ∧ ChainedAZ s.cfg.azChain s.flags.az r t.flags.az)

/-- A 32-bit addition by `addrrr` on the low words and `addc` on the high words, and a subtraction by
`subrrr` and `subc`, give the exact result modulo 2^32, in whatever registers the words are, as long
as the low result overwrites no high operand and the high result not the low one; whatever a compare
between the two does to SR (43_three_register_alu.md R140 to R143, 10_state.md R29). -/
def Obligations.MultiWordArithmetic : Prop :=
  ∀ (s t u v : State) (rnLo rsLo rdLo rnHi rsHi rdHi c1 c2 : Reg),
    rdLo ≠ rnHi → rdLo ≠ rsHi → rdHi ≠ rdLo → exec (.cmprr c1 c2) t = .next u →
      (exec (.addrrr rnLo rsLo rdLo) s = .next t → exec (.adcrrr rnHi rsHi rdHi) u = .next v →
        ((v.get rdHi).toNat * 65536 + (v.get rdLo).toNat : Int) =
          (((s.get rnHi).toNat * 65536 + (s.get rnLo).toNat : Int) +
            ((s.get rsHi).toNat * 65536 + (s.get rsLo).toNat)) % 4294967296) ∧
      (exec (.subrrr rnLo rsLo rdLo) s = .next t → exec (.subcrrr rnHi rsHi rdHi) u = .next v →
        ((v.get rdHi).toNat * 65536 + (v.get rdLo).toNat : Int) =
          (((s.get rnHi).toNat * 65536 + (s.get rnLo).toNat : Int) -
            ((s.get rsHi).toNat * 65536 + (s.get rsLo).toNat)) % 4294967296)

/-- `and`, `or` and `xor` (with the zero-extended immediate and of two registers) write the result bit
by bit, `neg` the negated value and `not` the complement; each sets Z and S from it, C and V by
`LOGIC_CV`, leaves I, AC and AZ, and changes nothing else (R124 to R126, R144 to R146, R213, R214,
10_state.md R28). Under `draw` C and V are the next two free bits, of whose values nothing is said, and
under the other two settings none is drawn: the numbering of the draws is the model's choice
(assumption log 6). -/
def Obligations.LogicResults : Prop :=
  ∀ (s : State) (rd : Reg),
    (∀ k : BitVec 8, ∃ t r, exec (.andkr k rd) s = .next t ∧ LogicEffect s t rd r ∧
      ∀ j, j < 16 → r.getLsbD j = ((s.get rd).getLsbD j && k.getLsbD j)) ∧
    (∀ k : BitVec 8, ∃ t r, exec (.orkr k rd) s = .next t ∧ LogicEffect s t rd r ∧
      ∀ j, j < 16 → r.getLsbD j = ((s.get rd).getLsbD j || k.getLsbD j)) ∧
    (∀ k : BitVec 8, ∃ t r, exec (.xorkr k rd) s = .next t ∧ LogicEffect s t rd r ∧
      ∀ j, j < 16 → r.getLsbD j = ((s.get rd).getLsbD j ^^ k.getLsbD j)) ∧
    (∀ rn rs, ∃ t r, exec (.andrrr rn rs rd) s = .next t ∧ LogicEffect s t rd r ∧
      ∀ j, j < 16 → r.getLsbD j = ((s.get rn).getLsbD j && (s.get rs).getLsbD j)) ∧
    (∀ rn rs, ∃ t r, exec (.orrrr rn rs rd) s = .next t ∧ LogicEffect s t rd r ∧
      ∀ j, j < 16 → r.getLsbD j = ((s.get rn).getLsbD j || (s.get rs).getLsbD j)) ∧
    (∀ rn rs, ∃ t r, exec (.xorrrr rn rs rd) s = .next t ∧ LogicEffect s t rd r ∧
      ∀ j, j < 16 → r.getLsbD j = ((s.get rn).getLsbD j ^^ (s.get rs).getLsbD j)) ∧
    (∀ rs, ∃ t r, exec (.neg rs rd) s = .next t ∧ LogicEffect s t rd r ∧
      r.toNat = (65536 - (s.get rs).toNat) % 65536) ∧
    (∀ rs, ∃ t r, exec (.notrr rs rd) s = .next t ∧ LogicEffect s t rd r ∧
      r.toNat = 65535 - (s.get rs).toNat)

/-! ### Moves, shifts, select and set -/

/-- `mov K, Rd` writes the sign-extended 8-bit immediate, `mov #K, Rd` the second word whole, and
`add Rs, #K, Rd` the sum of Rs and the second word modulo 65536; no flag and nothing else changes
(R120, R190, R220, 30_encoding.md R96). -/
def Obligations.ImmediateMoves : Prop :=
  ∀ (s : State) (rd : Reg),
    (∀ k : BitVec 8, ∃ t v, exec (.movkr k rd) s = .next t ∧ WritesReg s t rd v 1 ∧
      v.toInt = k.toInt) ∧
    (∀ x k, ∃ t, exec (.movKr x rd k) s = .next t ∧ WritesReg s t rd k 2) ∧
    (∀ rs k, ∃ t v, exec (.movMr rs rd k) s = .next t ∧ WritesReg s t rd v 2 ∧
      v.toNat = ((s.get rs).toNat + k.toNat) % 65536)

/-- `mov`, `zext`, `sext`, `bswap` and `sextw` write to Rd the value of Rs, its low byte zero- and
sign-extended, its bytes swapped, and all ones or zero by its sign; no flag and nothing else changes
(48_two_register.md R200, R202 to R205). -/
def Obligations.TwoRegisterMoves : Prop :=
  ∀ (s : State) (rs rd : Reg),
    (∃ t, exec (.movrr rs rd) s = .next t ∧ WritesReg s t rd (s.get rs) 1) ∧
    (∃ t v, exec (.zext rs rd) s = .next t ∧ WritesReg s t rd v 1 ∧
      v.toNat = (s.get rs).toNat % 256) ∧
    (∃ t v, exec (.sext rs rd) s = .next t ∧ WritesReg s t rd v 1 ∧
      v.toInt = (BitVec.ofNat 8 (s.get rs).toNat).toInt) ∧
    (∃ t v, exec (.bswap rs rd) s = .next t ∧ WritesReg s t rd v 1 ∧
      v.toNat = (s.get rs).toNat % 256 * 256 + (s.get rs).toNat / 256) ∧
    (∃ t v, exec (.sextw rs rd) s = .next t ∧ WritesReg s t rd v 1 ∧
      v.toInt = if (s.get rs).toInt < 0 then -1 else 0)

/-- The three shifts: `lsr` halves the unsigned value, `lsl` doubles it modulo 65536, `asr` halves the
signed value rounding down; no flag and nothing else changes (48_two_register.md R210, R211, R212). -/
def Obligations.ShiftsByOne : Prop :=
  ∀ (s : State) (rs rd : Reg),
    (∃ t v, exec (.lsr rs rd) s = .next t ∧ WritesReg s t rd v 1 ∧
      v.toNat = (s.get rs).toNat / 2) ∧
    (∃ t v, exec (.lsl rs rd) s = .next t ∧ WritesReg s t rd v 1 ∧
      v.toNat = (s.get rs).toNat * 2 % 65536) ∧
    (∃ t v, exec (.asr rs rd) s = .next t ∧ WritesReg s t rd v 1 ∧
      v.toInt = (s.get rs).toInt / 2)

/-- Each of the eight `sel%cc` writes Rn to Rd where its condition holds of the SR flags and Rs where
it does not; no flag and nothing else changes (45_select_set.md R160). -/
def Obligations.SelectByCondition : Prop :=
  ∀ (s : State) (cc : Cond) (rn rs rd : Reg),
    ∃ t v, exec (selectInstr cc rn rs rd) s = .next t ∧ WritesReg s t rd v 1 ∧
      (CondTests cc s.flags → v = s.get rn) ∧ (¬ CondTests cc s.flags → v = s.get rs)

/-- Each of the eight `set%cc` writes 1 to Rd where its condition holds of the SR flags and 0 where it
does not; no flag and nothing else changes (45_select_set.md R161). -/
def Obligations.SetByCondition : Prop :=
  ∀ (s : State) (cc : Cond) (x : BitVec 3) (rd : Reg),
    ∃ t v, exec (setInstr cc x rd) s = .next t ∧ WritesReg s t rd v 1 ∧
      (CondTests cc s.flags → v.toNat = 1) ∧ (¬ CondTests cc s.flags → v.toNat = 0)

/-- `ld` from program memory writes the program word at the address in Rs to Rd, and nothing else
changes; where that word is outside the loaded image it has no successor (48_two_register.md R206,
20_memory.md R56). -/
def Obligations.LoadProgramWord : Prop :=
  ∀ (s : State) (rs rd : Reg),
    (∀ v, readProg s (s.get rs) = .next v →
      ∃ t, exec (.mov16pr rs rd) s = .next t ∧ WritesReg s t rd v 1) ∧
    ((s.get rs).toNat < s.cfg.pmemWords → Memory.find s.pmem (s.get rs).toNat = none →
      exec (.mov16pr rs rd) s = .fault .programWordNoValue)

/-! ### SRAR -/

/-- `mov SRAR, Rd` writes to Rd the word whose bit at each flag's position in `SRAR_LAYOUT` is that
flag and whose other bits are 0, for every layout of distinct positions; with the default layout it is
AZ + 2 AC + 4 Z + 8 C + 16 S + 32 V + 64 I (47_single_register_word_immediate.md R184, 10_state.md
R25). -/
def Obligations.MovSrarToRegister : Prop :=
  ∀ (s : State) (x : BitVec 3) (rd : Reg),
    ∃ t v, exec (.movSr x rd) s = .next t ∧ WritesReg s t rd v 1 ∧
      (s.cfg.srarLayout.distinct = true →
        ∀ j, j < 16 → v.getLsbD j = srarBit s.cfg.srarLayout s.flags j) ∧
      (s.cfg.srarLayout = ⟨6, 5, 4, 3, 2, 1, 0⟩ →
        v.toNat = flagNat s.flags.az + 2 * flagNat s.flags.ac + 4 * flagNat s.flags.z +
          8 * flagNat s.flags.c + 16 * flagNat s.flags.s + 32 * flagNat s.flags.v +
          64 * flagNat s.flags.i)

/-- `mov Rd, SRAR` writes all seven flags, I among them, from the bits of Rd at their positions, and
changes nothing else (47_single_register_word_immediate.md R185). -/
def Obligations.MovRegisterToSrar : Prop :=
  ∀ (s : State) (x : BitVec 3) (rd : Reg), ∃ t, exec (.movrS x rd) s = .next t ∧
    t.flags.i = (s.get rd).getLsbD s.cfg.srarLayout.i.val ∧
    t.flags.v = (s.get rd).getLsbD s.cfg.srarLayout.v.val ∧
    t.flags.s = (s.get rd).getLsbD s.cfg.srarLayout.s.val ∧
    t.flags.c = (s.get rd).getLsbD s.cfg.srarLayout.c.val ∧
    t.flags.z = (s.get rd).getLsbD s.cfg.srarLayout.z.val ∧
    t.flags.ac = (s.get rd).getLsbD s.cfg.srarLayout.ac.val ∧
    t.flags.az = (s.get rd).getLsbD s.cfg.srarLayout.az.val ∧
    t.pc = s.pc + 1 ∧ t.draws = s.draws ∧ Frame [] [] s t

/-- `mov SRAR, Rd` followed at once by `mov Rd, SRAR` leaves all seven flags as they were, for every
layout of distinct positions (10_state.md R39). -/
def Obligations.SrarRoundTrip : Prop :=
  ∀ (s t : State) (x y : BitVec 3) (rd : Reg), s.cfg.srarLayout.distinct = true →
    exec (.movSr x rd) s = .next t →
      ∃ u, exec (.movrS y rd) t = .next u ∧ u.flags = s.flags

/-- `dint` clears I and `eint` sets it; the other six flags and everything but `pc` are as before
(46_zero_operand_call_absolute.md R173, R174, 10_state.md R35). -/
def Obligations.DintEintWriteI : Prop :=
  ∀ (s : State) (x : BitVec 6),
    (∃ t, exec (.dint x) s = .next t ∧ t.flags = { s.flags with i := false } ∧
      t.draws = s.draws ∧ t.pc = s.pc + 1 ∧ Frame [] [] s t) ∧
    (∃ t, exec (.eint x) s = .next t ∧ t.flags = { s.flags with i := true } ∧
      t.draws = s.draws ∧ t.pc = s.pc + 1 ∧ Frame [] [] s t)

/-! ### Loads and stores -/

/-- The 6-bit field of T4 means an offset in -16..47, every one of them by one field, by the mapping
that `T4_K_DECODE` names; no two mappings agree on a field; the effective addresses are the base plus
the offset, the two registers, and the base plus the second word, modulo 65536 (30_encoding.md R92,
R96, 42_loadstore_imm_offset.md R134, 44_loadstore_reg_offset.md R155, 49_loadstore_word_offset.md
R226). -/
def Obligations.EffectiveAddresses : Prop :=
  (∀ f : BitVec 6,
    t4Offset .signfill f = (if f.toNat < 48 then (f.toNat : Int) else (f.toNat : Int) - 64) ∧
    t4Offset .excess16 f = (f.toNat : Int) - 16 ∧
    t4Offset .signedPlus16 f = f.toInt + 16) ∧
  (∀ (d : T4Decode) (f : BitVec 6), -16 ≤ t4Offset d f ∧ t4Offset d f ≤ 47) ∧
  (∀ (d : T4Decode) (k : Int), -16 ≤ k → k ≤ 47 →
    ∃ f, t4Offset d f = k ∧ ∀ g, t4Offset d g = k → g = f) ∧
  (∀ (d e : T4Decode) (f : BitVec 6), t4Offset d f = t4Offset e f → d = e) ∧
  ∀ (s : State) (rs : Reg),
    (∀ f, ((eaImm s rs f).toNat : Int) =
      ((s.get rs).toNat + t4Offset s.cfg.t4Decode f) % 65536) ∧
    (∀ rn, (eaReg s rn rs).toNat = ((s.get rn).toNat + (s.get rs).toNat) % 65536) ∧
    (∀ k, (eaWord s rs k).toNat = ((s.get rs).toNat + k.toNat) % 65536)

/-- Every word load writes to Rd the word its two bytes hold and changes nothing else, in the four
addressing forms; the address is computed before Rd is written (R130, R150, R191, R221, 20_memory.md
R50, R53, R57). -/
def Obligations.WordLoads : Prop :=
  ∀ (s : State) (p v : Word) (rd : Reg), HoldsWord s p v →
    (∀ k rs, PerformedAt s (eaImm s rs k) p →
      ∃ t, exec (.mov16mr k rs rd) s = .next t ∧ WritesReg s t rd v 1) ∧
    (∀ rn rs, PerformedAt s (eaReg s rn rs) p →
      ∃ t, exec (.mov16nr rn rs rd) s = .next t ∧ WritesReg s t rd v 1) ∧
    (∀ x a, PerformedAt s a p →
      ∃ t, exec (.mov16ar x rd a) s = .next t ∧ WritesReg s t rd v 2) ∧
    (∀ rs k, PerformedAt s (eaWord s rs k) p →
      ∃ t, exec (.mov16Mr rs rd k) s = .next t ∧ WritesReg s t rd v 2)

/-- Every byte load writes to Rd the byte at its address, zero-extended by `ld.zb` and sign-extended by
`ld.sb`, and changes nothing else (R131, R151, R152, R192, R193, R222, R223, 20_memory.md R57). -/
def Obligations.ByteLoads : Prop :=
  ∀ (s : State) (rd : Reg) (b : Byte) (z g : Word), z.toNat = b.toNat → g.toInt = b.toInt →
    (∀ k rs, readByte s (eaImm s rs k) = .next b →
      ∃ t, exec (.movs8mr k rs rd) s = .next t ∧ WritesReg s t rd g 1) ∧
    (∀ rn rs, readByte s (eaReg s rn rs) = .next b →
      (∃ t, exec (.mov8znr rn rs rd) s = .next t ∧ WritesReg s t rd z 1) ∧
      (∃ t, exec (.mov8snr rn rs rd) s = .next t ∧ WritesReg s t rd g 1)) ∧
    (∀ x a, readByte s a = .next b →
      (∃ t, exec (.mov8zar x rd a) s = .next t ∧ WritesReg s t rd z 2) ∧
      (∃ t, exec (.mov8sar x rd a) s = .next t ∧ WritesReg s t rd g 2)) ∧
    (∀ rs k, readByte s (eaWord s rs k) = .next b →
      (∃ t, exec (.mov8zMr rs rd k) s = .next t ∧ WritesReg s t rd z 2) ∧
      (∃ t, exec (.mov8sMr rs rd k) s = .next t ∧ WritesReg s t rd g 2))

/-- Every word store puts all 16 bits of Rd in the two bytes of its address, by `BYTE_ORDER`, and
changes nothing else, in the four addressing forms (R132, R153, R194, R224, 20_memory.md R52). -/
def Obligations.WordStores : Prop :=
  ∀ (s : State) (p : Word) (rd : Reg), WordFits s p →
    (∀ k rs, PerformedAt s (eaImm s rs k) p →
      ∃ t, exec (.mov16rm k rs rd) s = .next t ∧ StoresWord s t p (s.get rd) 1) ∧
    (∀ rn rs, PerformedAt s (eaReg s rn rs) p →
      ∃ t, exec (.mov16rn rn rs rd) s = .next t ∧ StoresWord s t p (s.get rd) 1) ∧
    (∀ x a, PerformedAt s a p →
      ∃ t, exec (.mov16ra x rd a) s = .next t ∧ StoresWord s t p (s.get rd) 2) ∧
    (∀ rs k, PerformedAt s (eaWord s rs k) p →
      ∃ t, exec (.mov16rM rs rd k) s = .next t ∧ StoresWord s t p (s.get rd) 2)

/-- Every byte store puts bits 7:0 of Rd in the byte at its address and changes nothing else, in the
four addressing forms (R133, R154, R195, R225, 20_memory.md R52). -/
def Obligations.ByteStores : Prop :=
  ∀ (s : State) (rd : Reg),
    (∀ k rs, (eaImm s rs k).toNat < s.cfg.dmemBytes →
      ∃ t, exec (.mov8rm k rs rd) s = .next t ∧ StoresByte s t (eaImm s rs k) (s.get rd) 1) ∧
    (∀ rn rs, (eaReg s rn rs).toNat < s.cfg.dmemBytes →
      ∃ t, exec (.mov8rn rn rs rd) s = .next t ∧ StoresByte s t (eaReg s rn rs) (s.get rd) 1) ∧
    (∀ x a, a.toNat < s.cfg.dmemBytes →
      ∃ t, exec (.mov8ra x rd a) s = .next t ∧ StoresByte s t a (s.get rd) 2) ∧
    (∀ rs k, (eaWord s rs k).toNat < s.cfg.dmemBytes →
      ∃ t, exec (.mov8rM rs rd k) s = .next t ∧ StoresByte s t (eaWord s rs k) (s.get rd) 2)

/-- A word access at an odd address, by any load, store, push, pop, call or return, is refused with
`MISALIGNED_WORD = refuse` and performed at the address below with `clear_bit0`; byte accesses, the
fetch and every other instruction have no alignment to violate (20_memory.md R53). -/
def Obligations.MisalignedWordAccess : Prop :=
  defaultConfig.misaligned = .refuse ∧
  (∀ (i : Instr) (s : State) (a : Word), wordLoadAt i s = some a ∨ wordStoreAt i s = some a →
    a.toNat % 2 = 1 → s.cfg.misaligned = .refuse → exec i s = .refused .misalignedWord) ∧
  (∀ (s : State) (a v : Word), a.toNat % 2 = 1 → s.cfg.misaligned = .clearBit0 →
    readWord s a = readWord s (a - 1) ∧ writeWord s a v = writeWord s (a - 1) v) ∧
  (∀ (i : Instr) (s : State), wordLoadAt i s = none → wordStoreAt i s = none →
    exec i s ≠ .refused .misalignedWord) ∧
  ∀ s : State, fetchInstr s ≠ .refused .misalignedWord

/-- An access or a fetch at or above a memory's configured size is refused, the fetch under the premise
NoInterrupt (60_exceptions.md R236); with the default sizes no address is out of range (20_memory.md
R55). A word needs both of its bytes inside, and an odd address is treated as R53 says first (assumption
log 16); a load whose lower byte is inside and holds no value is the fault of UnwrittenDataFaults
(60_exceptions.md R233: X5 before X7, log 22). -/
def Obligations.OutsideMemoryRefused : Prop :=
  (∀ (i : Instr) (s : State) (a : Word), byteLoadAt i s = some a ∨ byteStoreAt i s = some a →
    s.cfg.dmemBytes ≤ a.toNat → exec i s = .refused .addressOutsideMemory) ∧
  (∀ (i : Instr) (s : State) (a p : Word), wordStoreAt i s = some a →
    PerformedAt s a p → ¬ WordFits s p → exec i s = .refused .addressOutsideMemory) ∧
  (∀ (i : Instr) (s : State) (a p : Word), wordLoadAt i s = some a → PerformedAt s a p →
    s.cfg.dmemBytes ≤ p.toNat ∨ ¬ WordFits s p ∧ Memory.find s.dmem p.toNat ≠ none →
      exec i s = .refused .addressOutsideMemory) ∧
  (∀ (s : State) (rs rd : Reg), s.cfg.pmemWords ≤ (s.get rs).toNat →
    exec (.mov16pr rs rd) s = .refused .addressOutsideMemory) ∧
  (∀ s : State, NoInterrupt 1 s →
    (s.cfg.pmemWords ≤ s.pc.toNat → step s = .refused .addressOutsideMemory) ∧
    (∀ w, readProg s s.pc = .next w → (decode w 0).wellFormed s.cfg.strictX = true →
      twoWords w = true → s.cfg.pmemWords ≤ (s.pc + 1).toNat →
        step s = .refused .addressOutsideMemory)) ∧
  ∀ (i : Instr) (s : State), s.cfg.dmemBytes = 65536 → s.cfg.pmemWords = 65536 →
    exec i s ≠ .refused .addressOutsideMemory ∧ fetchInstr s ≠ .refused .addressOutsideMemory

/-- A load, `pop`, `ret` or `reti` of a data byte that holds no value has no successor: it is never
read as zero; a store, `push` or call never faults on the old value (70_reset_and_hazards.md R252). Of a
word the lower byte is read first: where it holds no value, that is what is reported, although the
upper byte may be outside data memory (60_exceptions.md R233: X5 before X7; assumption log 22). -/
def Obligations.UnwrittenDataFaults : Prop :=
  (∀ (i : Instr) (s : State) (a : Word), byteLoadAt i s = some a → a.toNat < s.cfg.dmemBytes →
    Memory.find s.dmem a.toNat = none → exec i s = .fault .dataByteNoValue) ∧
  (∀ (i : Instr) (s : State) (a p : Word), wordLoadAt i s = some a → PerformedAt s a p →
    p.toNat < s.cfg.dmemBytes ∧ Memory.find s.dmem p.toNat = none ∨
      WordFits s p ∧ Memory.find s.dmem (p + 1).toNat = none →
        exec i s = .fault .dataByteNoValue) ∧
  ∀ (i : Instr) (s : State) (a : Word) (e : Fault),
    byteStoreAt i s = some a ∨ wordStoreAt i s = some a → exec i s ≠ .fault e

/-- After a word store to an even address a byte read at it or after it sees the byte the store put
there, by `BYTE_ORDER`; after two byte stores a word read assembles them; and no other byte is
touched (20_memory.md R54, R51, R52). -/
def Obligations.MixedWidths : Prop :=
  (∀ (s t : State) (a v : Word), a.toNat % 2 = 0 → writeWord s a v = .next t →
    ∃ lower upper, readByte t a = .next lower ∧ readByte t (a + 1) = .next upper ∧
      (s.cfg.byteOrder = .little → lower.toNat = v.toNat % 256 ∧ upper.toNat = v.toNat / 256) ∧
      (s.cfg.byteOrder = .big → lower.toNat = v.toNat / 256 ∧ upper.toNat = v.toNat % 256) ∧
      ∀ c, c ≠ a → c ≠ a + 1 → readByte t c = readByte s c) ∧
  ∀ (s t u : State) (a : Word) (lower upper : Byte), a.toNat % 2 = 0 →
    writeByte s a lower = .next t → writeByte t (a + 1) upper = .next u →
      (∀ c, c ≠ a → readByte t c = readByte s c) ∧
      ∃ v, readWord u a = .next v ∧
        (s.cfg.byteOrder = .little → v.toNat = lower.toNat + 256 * upper.toNat) ∧
        (s.cfg.byteOrder = .big → v.toNat = 256 * lower.toNat + upper.toNat)

/-! ### Rules of the whole instruction set -/

/-- Which instruction can change which flags: V, S, C, Z only by the compares, the arithmetic and
logical instructions and `mov Rd, SRAR`; AC, AZ only by the additions and subtractions and
`mov Rd, SRAR`; I only by `dint`, `eint` and `mov Rd, SRAR`; and each of them by `reti` where it runs
(10_state.md R34, R35). A free bit is drawn by a logical instruction alone (R28, assumption log 6). -/
def Obligations.FlagWriters : Prop :=
  ∀ (i : Instr) (s t : State), exec i s = .next t →
    (i.mnemonic ∉ ["cmpkr", "cmprr", "addkr", "subkr", "addrrr", "adcrrr", "subrrr", "subcrrr",
      "andkr", "orkr", "xorkr", "andrrr", "orrrr", "xorrrr", "neg", "not", "movrS", "reti"] →
        t.flags.v = s.flags.v ∧ t.flags.s = s.flags.s ∧ t.flags.c = s.flags.c ∧
        t.flags.z = s.flags.z) ∧
    (i.mnemonic ∉ ["addkr", "subkr", "addrrr", "adcrrr", "subrrr", "subcrrr", "movrS", "reti"] →
        t.flags.ac = s.flags.ac ∧ t.flags.az = s.flags.az) ∧
    (i.mnemonic ∉ ["dint", "eint", "movrS", "reti"] → t.flags.i = s.flags.i) ∧
    (i.mnemonic ∉ ["andkr", "orkr", "xorkr", "andrrr", "orrrr", "xorrrr", "neg", "not"] →
        t.draws = s.draws)

/-- A register that no field of an instruction names as its destination is as before, but for SP after
`push`, `pop`, the calls, `ret`, and `reti` where it runs (10_state.md R23). -/
def Obligations.RegisterWriters : Prop :=
  ∀ (i : Instr) (s t : State) (r : Reg), exec i s = .next t → destOf i ≠ some r →
    (r = .sp → i.mnemonic ∉ ["push", "pop", "callrel", "calladr", "callreg", "ret", "reti"]) →
      t.get r = s.get r

/-- A byte of data memory is as before unless it is the byte a byte store addresses or one of the two
bytes of the word a store, `push` or call addresses (20_memory.md R57, R52). -/
def Obligations.DataMemoryWriters : Prop :=
  ∀ (i : Instr) (s t : State) (a : Word), exec i s = .next t → byteStoreAt i s ≠ some a →
    (∀ b p, wordStoreAt i s = some b → PerformedAt s b p → a ≠ p ∧ a ≠ p + 1) →
      readByte t a = readByte s a

/-- An instruction that does not transfer control goes on at the word after it: `pc` grows by the
instruction's length modulo 65536 (10_state.md R24). -/
def Obligations.PcAdvances : Prop :=
  ∀ (i : Instr) (s t : State), exec i s = .next t →
    i.mnemonic ∉ ["jmprel", "callrel", "breq", "brne", "bruge", "brult", "brlt", "brge", "brugt",
      "brgt", "ret", "reti", "calladr", "jmpreg", "callreg"] →
        (t.pc.toNat : Int) = ((s.pc.toNat : Int) + i.length) % 65536

/-- Program memory is constant during a run, and with it every fetch: after any number of steps it is
what it was, and so are the parameters (20_memory.md R62, R50). -/
def Obligations.ProgramMemoryConstant : Prop :=
  ∀ (n : Nat) (s t : State), Host.Core.run Sys2Proof.core n s = .next t →
    t.pmem = s.pmem ∧ t.cfg = s.cfg ∧ ∀ a, readProg t a = readProg s a

/-- Every step, interrupt entry among them, keeps both memories in canonical form: addresses strictly
rising and below 65536 (10_state.md R32, R33). -/
def Obligations.MemoryFormInvariant : Prop :=
  ∀ s t : State, MemoryForm s → step s = .next t → MemoryForm t

/-- After reset, for every value of the parameters, every launch state the host defines and every
environment, `pc` is `RESET_PC`, I is 0, the image's words and the data bytes that the host defined read
as it defined them, and every other one holds no value; both memories are in canonical form
(10_state.md R36, 70_reset_and_hazards.md R250, R251, R255; the environment's offers as a list:
assumption log 18). State.reset is that state with the defaults of 00_scope.md R5, which are written out
here; that it has no data byte and no program word defined, so that every read faults, and that no
request is offered, is the model's choice (log 4, 5 and 18). -/
def Obligations.ResetState : Prop :=
  (∀ (c : Config) (image : List (Nat × Word)) (data : List Host.Cell) (offers : List Bool),
    (State.launch c image data offers).pc = c.resetPc ∧
    (State.launch c image data offers).cfg = c ∧
    (State.launch c image data offers).flags.i = false ∧
    (State.launch c image data offers).irqOffers = offers ∧
    (∀ (a w : Word), a.toNat < c.pmemWords →
      (readProg (State.launch c image data offers) a = .next w ↔
        Memory.find image a.toNat = some w) ∧
      (readProg (State.launch c image data offers) a = .fault .programWordNoValue ↔
        Memory.find image a.toNat = none)) ∧
    (∀ (a : Word) (b : Byte), a.toNat < c.dmemBytes →
      (readByte (State.launch c image data offers) a = .next b ↔
        Memory.find data a.toNat = some b) ∧
      (readByte (State.launch c image data offers) a = .fault .dataByteNoValue ↔
        Memory.find data a.toNat = none)) ∧
    (Memory.wf image = true → Memory.wf data = true →
      MemoryForm (State.launch c image data offers))) ∧
  State.reset = State.launch State.reset.cfg [] [] [] ∧ State.reset.pc.toNat = 0 ∧
  State.reset.flags.i = false ∧
  (∀ a, readByte State.reset a = .fault .dataByteNoValue) ∧
  (∀ a, readProg State.reset a = .fault .programWordNoValue) ∧
  State.reset.cfg =
    { pmemWords := 65536
      dmemBytes := 65536
      byteOrder := .little
      misaligned := .refuse
      relBase := .next
      t4Decode := .signfill
      logicCV := .draw
      azChain := false
      srarLayout := { i := 6, v := 5, s := 4, c := 3, z := 2, ac := 1, az := 0 }
      cmprrLeft := .rd
      strictX := false
      irqModel := .noDelivery
      resetPc := 0x0000 } ∧
  MemoryForm State.reset
end

