-- ==== Sys2Proof/Laws/Encoding.lean ====
section
/-! SUPPORT. The fields of a word and the words of an encoding, as numbers: with these, what a
decoder reads from an encoded instruction is arithmetic. -/

namespace Sys2Proof

@[simp] theorem Reg.ofBits_toBits (r : Reg) : Reg.ofBits r.toBits = r := by
  cases r <;> rfl

@[simp] theorem Reg.toBits_ofBits (b : BitVec 3) : (Reg.ofBits b).toBits = b := by
  revert b
  decide

theorem field_toNat (w : Word) (lo len : Nat) :
    (field w lo len).toNat = w.toNat / 2 ^ lo % 2 ^ len := by
  simp [field, BitVec.extractLsb'_toNat, Nat.shiftRight_eq_div_pow]

/-- A field is the value its number says. -/
theorem field_eq {w : Word} {lo len : Nat} {b : BitVec len}
    (h : w.toNat / 2 ^ lo % 2 ^ len = b.toNat) : field w lo len = b :=
  BitVec.eq_of_toNat_eq (by rw [field_toNat, h])

theorem toNat_append {m n : Nat} (x : BitVec m) (y : BitVec n) :
    (x ++ y).toNat = x.toNat * 2 ^ n + y.toNat := by
  rw [BitVec.toNat_append, ← Nat.shiftLeft_add_eq_or_of_lt y.isLt, Nat.shiftLeft_eq]

/-! ### The patterns as numbers (R83 to R95) -/

theorem encodeT1_toNat (op : BitVec 1) (a : BitVec 12) :
    (encodeT1 op a).toNat = 0xE000 + op.toNat * 4096 + a.toNat := by
  show BitVec.toNat (0b111#3 ++ (op ++ a)) = _
  simp only [toNat_append, BitVec.toNat_ofNat]
  omega

theorem encodeT2_toNat (cc : BitVec 3) (a : BitVec 10) :
    (encodeT2 cc a).toNat = 0xC000 + cc.toNat * 1024 + a.toNat := by
  show BitVec.toNat (0b110#3 ++ (cc ++ a)) = _
  simp only [toNat_append, BitVec.toNat_ofNat]
  omega

theorem encodeT3_toNat (op : BitVec 3) (k : BitVec 8) (rd : Reg) :
    (encodeT3 op k rd).toNat =
      0x8000 + op.toNat * 2048 + k.toNat * 8 + rd.toBits.toNat := by
  show BitVec.toNat (0b10#2 ++ (op ++ (k ++ rd.toBits))) = _
  simp only [toNat_append, BitVec.toNat_ofNat]
  omega

theorem encodeT4_toNat (op : BitVec 2) (k : BitVec 6) (rs rd : Reg) :
    (encodeT4 op k rs rd).toNat =
      0x4000 + op.toNat * 4096 + k.toNat * 64 + rs.toBits.toNat * 8 + rd.toBits.toNat := by
  show BitVec.toNat (0b01#2 ++ (op ++ (k ++ (rs.toBits ++ rd.toBits)))) = _
  simp only [toNat_append, BitVec.toNat_ofNat]
  omega

theorem encodeT5_toNat (op : BitVec 4) (rn rs rd : Reg) :
    (encodeT5 op rn rs rd).toNat =
      0x2000 + op.toNat * 512 + rn.toBits.toNat * 64 + rs.toBits.toNat * 8 + rd.toBits.toNat := by
  show BitVec.toNat (0b001#3 ++ (op ++ (rn.toBits ++ (rs.toBits ++ rd.toBits)))) = _
  simp only [toNat_append, BitVec.toNat_ofNat]
  omega

theorem encodeT6_toNat (cc : BitVec 3) (rn rs rd : Reg) :
    (encodeT6 cc rn rs rd).toNat =
      cc.toNat * 1024 + 512 + rn.toBits.toNat * 64 + rs.toBits.toNat * 8 + rd.toBits.toNat := by
  show BitVec.toNat (0b000#3 ++ (cc ++ (0b1#1 ++ (rn.toBits ++ (rs.toBits ++ rd.toBits))))) = _
  simp only [toNat_append, BitVec.toNat_ofNat]
  omega

theorem encodeT7_toNat (cc x : BitVec 3) (rd : Reg) :
    (encodeT7 cc x rd).toNat =
      cc.toNat * 1024 + 0x1C0 + x.toNat * 8 + rd.toBits.toNat := by
  show BitVec.toNat (0b000#3 ++ (cc ++ (0b0111#4 ++ (x ++ rd.toBits)))) = _
  simp only [toNat_append, BitVec.toNat_ofNat]
  omega

theorem encodeT8_toNat (op : BitVec 3) (x : BitVec 6) :
    (encodeT8 op x).toNat = op.toNat * 1024 + 0x180 + x.toNat := by
  show BitVec.toNat (0b000#3 ++ (op ++ (0b0110#4 ++ x))) = _
  simp only [toNat_append, BitVec.toNat_ofNat]
  omega

theorem encodeT9_toNat (op : BitVec 3) (o : BitVec 1) (x : BitVec 3) (rd : Reg) :
    (encodeT9 op o x rd).toNat =
      op.toNat * 1024 + 0x100 + o.toNat * 64 + x.toNat * 8 + rd.toBits.toNat := by
  show BitVec.toNat (0b000#3 ++ (op ++ (0b010#3 ++ (o ++ (x ++ rd.toBits))))) = _
  simp only [toNat_append, BitVec.toNat_ofNat]
  omega

theorem encodeT10_toNat (op : BitVec 3) (op2 : BitVec 2) (rs rd : Reg) :
    (encodeT10 op op2 rs rd).toNat =
      op.toNat * 1024 + op2.toNat * 64 + rs.toBits.toNat * 8 + rd.toBits.toNat := by
  show BitVec.toNat (0b000#3 ++ (op ++ (0b00#2 ++ (op2 ++ (rs.toBits ++ rd.toBits))))) = _
  simp only [toNat_append, BitVec.toNat_ofNat]
  omega

end Sys2Proof
end

