-- ==== Sys2Proof/Laws/Flags.lean ====
section
/-! SUPPORT. What the flag computations say in exact numbers, and the word form of SRAR. -/

namespace Sys2Proof.Machine

/-! ### Sums and differences (10_state.md R26) -/

theorem toInt_eq (w : Word) :
    w.toInt = if w.toNat < 32768 then (w.toNat : Int) else (w.toNat : Int) - 65536 := by
  have := w.isLt
  rw [BitVec.toInt_eq_toNat_cond]
  split <;> split <;> omega

theorem addWithCarry_isSum (a b : Word) (cin : Bool) :
    IsSum a b cin.toNat (addWithCarry a b cin).result (addWithCarry a b cin).carry
      (addWithCarry a b cin).overflow := by
  have ha := a.isLt
  have hb := b.isLt
  have hc : cin.toNat ≤ 1 := Bool.toNat_le cin
  refine ⟨by simp [addWithCarry], by simp [addWithCarry], ?_⟩
  simp only [addWithCarry, decide_eq_true_eq, SignedOverflow, toInt_eq, BitVec.toNat_ofNat]
  split <;> split <;> split <;> omega

theorem toNat_not (b : Word) : (~~~b).toNat = 65535 - b.toNat := by
  rw [BitVec.toNat_not]

theorem subWithCarry_isDifference (a b : Word) (notBorrow : Bool) :
    IsDifference a b (1 - notBorrow.toNat) (subWithCarry a b notBorrow).result
      (subWithCarry a b notBorrow).carry (subWithCarry a b notBorrow).overflow := by
  have ha := a.isLt
  have hb := b.isLt
  have hn := toNat_not b
  have hc : notBorrow.toNat ≤ 1 := Bool.toNat_le notBorrow
  refine ⟨?_, ?_, ?_⟩
  · simp only [subWithCarry, addWithCarry, BitVec.toNat_ofNat, hn]
    omega
  · simp only [subWithCarry, addWithCarry, decide_eq_true_eq, hn]
    omega
  · simp only [subWithCarry, addWithCarry, decide_eq_true_eq, SignedOverflow, toInt_eq,
      BitVec.toNat_ofNat, hn]
    split <;> split <;> split <;> split <;> omega

theorem zeroAndSign (r : Word) : ZeroAndSign r (r == 0) r.msb := by
  constructor
  · rw [beq_iff_eq]
    constructor
    · rintro rfl
      rfl
    · intro h
      exact BitVec.eq_of_toNat_eq h
  · rw [BitVec.msb_eq_decide, decide_eq_true_eq]

/-! ### Conditions (10_state.md R31) -/

theorem condHolds_iff (cc : Cond) (f : Flags) : condHolds cc f = true ↔ CondTests cc f := by
  cases cc <;> simp [condHolds, CondTests]

/-- After a compare each condition says of the operands what its description says. -/
theorem condHolds_compare (cc : Cond) (f : Flags) (a b : Word) :
    condHolds cc (f.withArithSR (subWithCarry a b true)) = true ↔ CondRelates cc a b := by
  obtain ⟨hr, hc, hv⟩ := subWithCarry_isDifference a b true
  obtain ⟨hz, hs⟩ := zeroAndSign (subWithCarry a b true).result
  have ha := a.isLt
  have hb := b.isLt
  have hl := (subWithCarry a b true).result.isLt
  have hab : a = b ↔ a.toNat = b.toNat := BitVec.toNat_inj.symm
  simp only [Bool.toNat_true, SignedOverflow] at hr hc hv
  have ta := toInt_eq a
  have tb := toInt_eq b
  have hlt : a.toInt < b.toInt ↔
      ((subWithCarry a b true).result.msb ≠ (subWithCarry a b true).overflow) := by
    rw [Ne, Bool.eq_iff_iff, hs, hv]
    split at ta <;> split at tb <;> omega
  have hge : b.toInt ≤ a.toInt ↔
      ((subWithCarry a b true).result.msb = (subWithCarry a b true).overflow) := by
    rw [← not_iff_not, ← Ne, ← hlt]
    omega
  rw [condHolds_iff]
  cases cc <;>
    simp only [CondTests, CondRelates, Flags.withArithSR, ← Bool.not_eq_true, hz, hc, hab, Ne,
      hlt, hge] <;>
    try omega
  · rw [← hge]
    split at ta <;> split at tb <;> omega

/-! ### SRAR as a word (10_state.md R25) -/

theorem setBit_getLsbD (w : Word) (p : Fin 16) (b : Bool) (j : Nat) (hj : j < 16) :
    (setBit w p b).getLsbD j = if j = p.val then b else w.getLsbD j := by
  unfold setBit
  by_cases h : j = p.val
  · subst h
    cases b <;> simp
  · cases b <;> simp [h, hj]

theorem unpackSrar_packSrar (l : SrarLayout) (f : Flags) (h : l.distinct = true) :
    unpackSrar l (packSrar l f) = f := by
  obtain ⟨i, v, s, c, z, ac, az⟩ := l
  simp only [SrarLayout.distinct, decide_eq_true_eq, List.nodup_cons, List.mem_cons,
    List.not_mem_nil, or_false, not_or, Fin.ext_iff] at h
  simp only [unpackSrar, packSrar, setBit_getLsbD, Fin.isLt]
  obtain ⟨h1, h2, h3, h4, h5, h6, -⟩ := h
  simp [h1, h2, h3, h4, h5, h6]

theorem packSrar_getLsbD (l : SrarLayout) (f : Flags) (h : l.distinct = true) (j : Nat)
    (hj : j < 16) : (packSrar l f).getLsbD j = srarBit l f j := by
  obtain ⟨i, v, s, c, z, ac, az⟩ := l
  simp only [SrarLayout.distinct, decide_eq_true_eq, List.nodup_cons, List.mem_cons,
    List.not_mem_nil, or_false, not_or, Fin.ext_iff] at h
  simp only [packSrar, setBit_getLsbD _ _ _ _ hj, srarBit]
  obtain ⟨h1, h2, h3, h4, h5, h6, -⟩ := h
  split_ifs <;> simp_all

end Sys2Proof.Machine
end

