-- ==== Sys2Proof/Laws/Memory.lean ====
section
/-! SUPPORT. The laws of a memory: a read after a write, the canonical form, and that equal memories
are equal data. -/

namespace Sys2Proof.Machine

variable {α : Type}

@[simp] theorem Memory.find_put_same (m : List (Nat × α)) (a : Nat) (v : α) :
    Memory.find (Memory.put m a v) a = some v := by
  induction m with
  | nil => simp [Memory.put, Memory.find]
  | cons e m ih =>
    obtain ⟨b, u⟩ := e
    simp only [Memory.put]
    split
    · simp [Memory.find]
    · split
      · simp [Memory.find]
      · simp [Memory.find, *]

theorem Memory.find_put_ne (m : List (Nat × α)) {a c : Nat} (v : α) (h : c ≠ a) :
    Memory.find (Memory.put m a v) c = Memory.find m c := by
  induction m with
  | nil => simp [Memory.put, Memory.find, h]
  | cons e m ih =>
    obtain ⟨b, u⟩ := e
    simp only [Memory.put]
    split
    · simp [Memory.find, h]
    · split
      · subst_vars
        simp [Memory.find, h]
      · simp [Memory.find, ih]

/-- An address below the first one of a canonical memory holds no value. -/
theorem Memory.find_below {m : List (Nat × α)} {lo a : Nat} (h : Memory.wfFrom lo m = true)
    (ha : a < lo) : Memory.find m a = none := by
  induction m generalizing lo with
  | nil => rfl
  | cons e m ih =>
    obtain ⟨b, u⟩ := e
    simp only [Memory.wfFrom, Bool.and_eq_true, decide_eq_true_eq] at h
    have hne : a ≠ b := by omega
    simp only [Memory.find, hne, if_false]
    exact ih h.2 (by omega)

/-- A write keeps the canonical form. -/
theorem Memory.wfFrom_put {m : List (Nat × α)} {lo a : Nat} (v : α)
    (h : Memory.wfFrom lo m = true) (hlo : lo ≤ a) (ha : a < 65536) :
    Memory.wfFrom lo (Memory.put m a v) = true := by
  induction m generalizing lo with
  | nil => simp [Memory.put, Memory.wfFrom, hlo, ha]
  | cons e m ih =>
    obtain ⟨b, u⟩ := e
    simp only [Memory.wfFrom, Bool.and_eq_true, decide_eq_true_eq] at h
    simp only [Memory.put]
    split
    · rename_i hab
      simp only [Memory.wfFrom, Bool.and_eq_true, decide_eq_true_eq]
      exact ⟨⟨hlo, ha⟩, ⟨by omega, h.1.2⟩, h.2⟩
    · split
      · rename_i hab
        subst hab
        simp only [Memory.wfFrom, Bool.and_eq_true, decide_eq_true_eq]
        exact ⟨⟨hlo, ha⟩, h.2⟩
      · simp only [Memory.wfFrom, Bool.and_eq_true, decide_eq_true_eq]
        exact ⟨h.1, ih h.2 (by omega)⟩

theorem Memory.wf_put {m : List (Nat × α)} {a : Nat} (v : α) (h : Memory.wf m = true)
    (ha : a < 65536) : Memory.wf (Memory.put m a v) = true :=
  Memory.wfFrom_put v h (Nat.zero_le a) ha

/-- Two canonical memories that hold the same values are the same list. -/
theorem Memory.ext_wfFrom {m n : List (Nat × α)} {lo : Nat} (hm : Memory.wfFrom lo m = true)
    (hn : Memory.wfFrom lo n = true) (h : ∀ a, Memory.find m a = Memory.find n a) : m = n := by
  induction m generalizing lo n with
  | nil =>
    cases n with
    | nil => rfl
    | cons e n =>
      obtain ⟨b, u⟩ := e
      have := h b
      simp [Memory.find] at this
  | cons e m ih =>
    obtain ⟨b, u⟩ := e
    cases n with
    | nil =>
      have := h b
      simp [Memory.find] at this
    | cons e' n =>
      obtain ⟨c, w⟩ := e'
      simp only [Memory.wfFrom, Bool.and_eq_true, decide_eq_true_eq] at hm hn
      have hbc : b = c := by
        rcases Nat.lt_trichotomy b c with hlt | heq | hgt
        · have hb := h b
          rw [Memory.find_below (lo := c) (m := (c, w) :: n)
            (by simp [Memory.wfFrom, hn.1.2, hn.2]) hlt] at hb
          simp [Memory.find] at hb
        · exact heq
        · have hc := h c
          rw [Memory.find_below (lo := b) (m := (b, u) :: m)
            (by simp [Memory.wfFrom, hm.1.2, hm.2]) hgt] at hc
          simp [Memory.find] at hc
      subst hbc
      have huw : u = w := by
        have := h b
        simpa [Memory.find] using this
      subst huw
      have htail : ∀ a, Memory.find m a = Memory.find n a := by
        intro a
        by_cases hab : a = b
        · subst hab
          rw [Memory.find_below hm.2 (by omega), Memory.find_below hn.2 (by omega)]
        · have := h a
          simpa [Memory.find, hab] using this
      rw [ih hm.2 hn.2 htail]

theorem Memory.ext_wf {m n : List (Nat × α)} (hm : Memory.wf m = true) (hn : Memory.wf n = true)
    (h : ∀ a, Memory.find m a = Memory.find n a) : m = n :=
  Memory.ext_wfFrom hm hn h

end Sys2Proof.Machine
end

