-- ==== Sys2Proof/Laws/State.lean ====
section
/-! SUPPORT. One lemma per field and update of State, and the laws of reading and writing a register. -/

namespace Sys2Proof.Machine

/-! ### The register file -/

@[simp] theorem Regs.get_set_same (g : Regs) (r : Reg) (v : Word) : (g.set r v).get r = v := by
  cases r <;> rfl

theorem Regs.get_set_ne (g : Regs) {r q : Reg} (v : Word) (h : q ≠ r) :
    (g.set r v).get q = g.get q := by
  cases r <;> cases q <;> first | rfl | exact absurd rfl h

theorem Regs.set_get (g : Regs) (r : Reg) : g.set r (g.get r) = g := by
  cases r <;> rfl

/-! ### The state after reset -/

@[simp] theorem State.launch_cfg (c : Config) (m : List (Nat × Word)) (d : List Host.Cell)
    (o : List Bool) :
    (State.launch c m d o).cfg = c := rfl

@[simp] theorem State.launch_pc (c : Config) (m : List (Nat × Word)) (d : List Host.Cell)
    (o : List Bool) :
    (State.launch c m d o).pc = c.resetPc := rfl

@[simp] theorem State.launch_flags_i (c : Config) (m : List (Nat × Word)) (d : List Host.Cell)
    (o : List Bool) :
    (State.launch c m d o).flags.i = false := rfl

@[simp] theorem State.launch_dmem (c : Config) (m : List (Nat × Word)) (d : List Host.Cell)
    (o : List Bool) :
    (State.launch c m d o).dmem = d := rfl

@[simp] theorem State.launch_pmem (c : Config) (m : List (Nat × Word)) (d : List Host.Cell)
    (o : List Bool) :
    (State.launch c m d o).pmem = m := rfl

@[simp] theorem State.launch_irqOffers (c : Config) (m : List (Nat × Word)) (d : List Host.Cell)
    (o : List Bool) :
    (State.launch c m d o).irqOffers = o := rfl

/-! ### The updates of State -/

@[simp] theorem State.set_cfg (s : State) (r : Reg) (v : Word) : (s.set r v).cfg = s.cfg := rfl

@[simp] theorem State.set_regs (s : State) (r : Reg) (v : Word) : (s.set r v).regs = s.regs.set r v := rfl

@[simp] theorem State.set_pc (s : State) (r : Reg) (v : Word) : (s.set r v).pc = s.pc := rfl

@[simp] theorem State.set_flags (s : State) (r : Reg) (v : Word) : (s.set r v).flags = s.flags := rfl

@[simp] theorem State.set_dmem (s : State) (r : Reg) (v : Word) : (s.set r v).dmem = s.dmem := rfl

@[simp] theorem State.set_pmem (s : State) (r : Reg) (v : Word) : (s.set r v).pmem = s.pmem := rfl

@[simp] theorem State.set_draws (s : State) (r : Reg) (v : Word) : (s.set r v).draws = s.draws := rfl

@[simp] theorem State.set_irqOffers (s : State) (r : Reg) (v : Word) : (s.set r v).irqOffers = s.irqOffers := rfl

@[simp] theorem State.setFlags_cfg (s : State) (f : Flags) : (s.setFlags f).cfg = s.cfg := rfl

@[simp] theorem State.setFlags_regs (s : State) (f : Flags) : (s.setFlags f).regs = s.regs := rfl

@[simp] theorem State.setFlags_pc (s : State) (f : Flags) : (s.setFlags f).pc = s.pc := rfl

@[simp] theorem State.setFlags_flags (s : State) (f : Flags) : (s.setFlags f).flags = f := rfl

@[simp] theorem State.setFlags_dmem (s : State) (f : Flags) : (s.setFlags f).dmem = s.dmem := rfl

@[simp] theorem State.setFlags_pmem (s : State) (f : Flags) : (s.setFlags f).pmem = s.pmem := rfl

@[simp] theorem State.setFlags_draws (s : State) (f : Flags) : (s.setFlags f).draws = s.draws := rfl

@[simp] theorem State.setFlags_irqOffers (s : State) (f : Flags) : (s.setFlags f).irqOffers = s.irqOffers := rfl

@[simp] theorem State.setFlags_get (s : State) (f : Flags) (q : Reg) : (s.setFlags f).get q = s.get q := rfl

@[simp] theorem State.setI_cfg (s : State) (b : Bool) : (s.setI b).cfg = s.cfg := rfl

@[simp] theorem State.setI_regs (s : State) (b : Bool) : (s.setI b).regs = s.regs := rfl

@[simp] theorem State.setI_pc (s : State) (b : Bool) : (s.setI b).pc = s.pc := rfl

@[simp] theorem State.setI_flags (s : State) (b : Bool) : (s.setI b).flags = { s.flags with i := b } := rfl

@[simp] theorem State.setI_dmem (s : State) (b : Bool) : (s.setI b).dmem = s.dmem := rfl

@[simp] theorem State.setI_pmem (s : State) (b : Bool) : (s.setI b).pmem = s.pmem := rfl

@[simp] theorem State.setI_draws (s : State) (b : Bool) : (s.setI b).draws = s.draws := rfl

@[simp] theorem State.setI_irqOffers (s : State) (b : Bool) : (s.setI b).irqOffers = s.irqOffers := rfl

@[simp] theorem State.setI_get (s : State) (b : Bool) (q : Reg) : (s.setI b).get q = s.get q := rfl

@[simp] theorem State.setPc_cfg (s : State) (t : Word) : (s.setPc t).cfg = s.cfg := rfl

@[simp] theorem State.setPc_regs (s : State) (t : Word) : (s.setPc t).regs = s.regs := rfl

@[simp] theorem State.setPc_pc (s : State) (t : Word) : (s.setPc t).pc = t := rfl

@[simp] theorem State.setPc_flags (s : State) (t : Word) : (s.setPc t).flags = s.flags := rfl

@[simp] theorem State.setPc_dmem (s : State) (t : Word) : (s.setPc t).dmem = s.dmem := rfl

@[simp] theorem State.setPc_pmem (s : State) (t : Word) : (s.setPc t).pmem = s.pmem := rfl

@[simp] theorem State.setPc_draws (s : State) (t : Word) : (s.setPc t).draws = s.draws := rfl

@[simp] theorem State.setPc_irqOffers (s : State) (t : Word) : (s.setPc t).irqOffers = s.irqOffers := rfl

@[simp] theorem State.setPc_get (s : State) (t : Word) (q : Reg) : (s.setPc t).get q = s.get q := rfl

@[simp] theorem State.advance_cfg (s : State) (n : Word) : (s.advance n).cfg = s.cfg := rfl

@[simp] theorem State.advance_regs (s : State) (n : Word) : (s.advance n).regs = s.regs := rfl

@[simp] theorem State.advance_pc (s : State) (n : Word) : (s.advance n).pc = s.pc + n := rfl

@[simp] theorem State.advance_flags (s : State) (n : Word) : (s.advance n).flags = s.flags := rfl

@[simp] theorem State.advance_dmem (s : State) (n : Word) : (s.advance n).dmem = s.dmem := rfl

@[simp] theorem State.advance_pmem (s : State) (n : Word) : (s.advance n).pmem = s.pmem := rfl

@[simp] theorem State.advance_draws (s : State) (n : Word) : (s.advance n).draws = s.draws := rfl

@[simp] theorem State.advance_irqOffers (s : State) (n : Word) : (s.advance n).irqOffers = s.irqOffers := rfl

@[simp] theorem State.advance_get (s : State) (n : Word) (q : Reg) : (s.advance n).get q = s.get q := rfl

@[simp] theorem loadProgramWord_cfg (s : State) (a w : Word) :
    (loadProgramWord s a w).cfg = s.cfg := rfl

@[simp] theorem loadProgramWord_regs (s : State) (a w : Word) :
    (loadProgramWord s a w).regs = s.regs := rfl

@[simp] theorem loadProgramWord_pc (s : State) (a w : Word) :
    (loadProgramWord s a w).pc = s.pc := rfl

@[simp] theorem loadProgramWord_flags (s : State) (a w : Word) :
    (loadProgramWord s a w).flags = s.flags := rfl

@[simp] theorem loadProgramWord_dmem (s : State) (a w : Word) :
    (loadProgramWord s a w).dmem = s.dmem := rfl

@[simp] theorem loadProgramWord_pmem (s : State) (a w : Word) :
    (loadProgramWord s a w).pmem = Memory.put s.pmem a.toNat w := rfl

@[simp] theorem loadProgramWord_draws (s : State) (a w : Word) :
    (loadProgramWord s a w).draws = s.draws := rfl

@[simp] theorem loadProgramWord_irqOffers (s : State) (a w : Word) :
    (loadProgramWord s a w).irqOffers = s.irqOffers := rfl

@[simp] theorem State.get_set_same (s : State) (r : Reg) (v : Word) : (s.set r v).get r = v :=
  Regs.get_set_same s.regs r v

theorem State.get_set_ne (s : State) {r q : Reg} (v : Word) (h : q ≠ r) :
    (s.set r v).get q = s.get q :=
  Regs.get_set_ne s.regs v h

/-! ### What reads of memory depend on -/

/-- A byte read depends on data memory and the configuration alone. -/
theorem readByte_congr {s t : State} (hm : t.dmem = s.dmem) (hc : t.cfg = s.cfg) (a : Word) :
    readByte t a = readByte s a := by
  cases s
  cases t
  simp only at hm hc
  subst hm hc
  rfl

/-- A program word read depends on program memory and the configuration alone. -/
theorem readProg_congr {s t : State} (hm : t.pmem = s.pmem) (hc : t.cfg = s.cfg) (a : Word) :
    readProg t a = readProg s a := by
  cases s
  cases t
  simp only at hm hc
  subst hm hc
  rfl

/-- A word read depends on data memory and the configuration alone. -/
theorem readWord_congr {s t : State} (hm : t.dmem = s.dmem) (hc : t.cfg = s.cfg) (a : Word) :
    readWord t a = readWord s a := by
  cases s
  cases t
  simp only at hm hc
  subst hm hc
  rfl

end Sys2Proof.Machine
end

