-- ==== Sys2Proof/Laws/Ops.lean ====
section
/-! SUPPORT. For each shared operation one lemma that says once everything it can do. -/

namespace Sys2Proof.Machine

/-! ### Going on -/

@[simp] theorem andThen_next {α β : Type} (a : α) (f : α → Res β) :
    andThen (.next a) f = f a := rfl

@[simp] theorem andThen_fault {α β : Type} (e : Fault) (f : α → Res β) :
    andThen (.fault e) f = .fault e := rfl

@[simp] theorem andThen_refused {α β : Type} (e : Refusal) (f : α → Res β) :
    andThen (.refused e) f = .refused e := rfl

theorem andThen_eq_next {α β : Type} {r : Res α} {f : α → Res β} {b : β} :
    andThen r f = .next b ↔ ∃ a, r = .next a ∧ f a = .next b := by
  cases r <;> simp [andThen]

/-! ### Frames -/

theorem Frame.refl (s : State) (l : List Reg) (m : List Word) : Frame l m s s :=
  ⟨fun _ _ => rfl, fun _ _ => rfl, fun _ => rfl, rfl, rfl⟩

theorem Frame.trans {l l' : List Reg} {m m' : List Word} {s t u : State} (h : Frame l m s t)
    (h' : Frame l' m' t u) (hl : ∀ r ∈ l, r ∈ l') (hm : ∀ a ∈ m, a ∈ m') : Frame l' m' s u :=
  ⟨fun r hr => (h'.regs r hr).trans (h.regs r fun hx => hr (hl r hx)),
   fun a ha => (h'.bytes a ha).trans (h.bytes a fun hx => ha (hm a hx)),
   fun a => (h'.program a).trans (h.program a),
   h'.cfg.trans h.cfg, h'.offers.trans h.offers⟩

/-- A state that keeps both memories, the configuration and the environment, and changes no
register but those listed. -/
theorem Frame.of_fields {l : List Reg} {m : List Word} {s t : State}
    (hr : ∀ r, r ∉ l → t.get r = s.get r) (hd : t.dmem = s.dmem) (hp : t.pmem = s.pmem)
    (hc : t.cfg = s.cfg) (ho : t.irqOffers = s.irqOffers) : Frame l m s t :=
  ⟨hr, fun a _ => readByte_congr hd hc a, fun a => readProg_congr hp hc a, hc, ho⟩

/-- Writing a register, the flags and `pc` of a state. -/
theorem State.set_frame (s : State) (rd : Reg) (v : Word) : Frame [rd] [] s (s.set rd v) :=
  .of_fields (fun r hr => State.get_set_ne s v (by simpa using hr)) rfl rfl rfl rfl

/-! ### Bytes -/

theorem readByte_eq_next {s : State} {a : Word} {b : Byte} :
    readByte s a = .next b ↔ a.toNat < s.cfg.dmemBytes ∧ Memory.find s.dmem a.toNat = some b := by
  unfold readByte State.inData
  by_cases h : a.toNat + 1 ≤ s.cfg.dmemBytes
  · simp only [h, decide_true, if_true]
    cases Memory.find s.dmem a.toNat with
    | none => simp
    | some c => simp; omega
  · simp [h]
    omega

/-- The state after a byte is put at `a`. -/
def State.putByte (s : State) (a : Word) (b : Byte) : State :=
  { s with dmem := Memory.put s.dmem a.toNat b }

theorem writeByte_eq_next {s t : State} {a : Word} {b : Byte} :
    writeByte s a b = .next t ↔
      a.toNat < s.cfg.dmemBytes ∧ t = s.putByte a b := by
  unfold writeByte State.inData State.putByte
  by_cases h : a.toNat + 1 ≤ s.cfg.dmemBytes
  · simp [h]
    constructor
    · intro e; exact ⟨by omega, e.symm⟩
    · intro e; exact e.2.symm
  · simp [h]
    omega

theorem readByte_put_same (s : State) (a : Word) (b : Byte) (h : a.toNat < s.cfg.dmemBytes) :
    readByte (s.putByte a b) a = .next b :=
  readByte_eq_next.2 ⟨h, Memory.find_put_same _ _ _⟩

theorem readByte_put_ne (s : State) {a c : Word} (b : Byte) (h : c ≠ a) :
    readByte (s.putByte a b) c = readByte s c := by
  have hn : c.toNat ≠ a.toNat := fun e => h (BitVec.eq_of_toNat_eq e)
  unfold readByte State.inData State.putByte
  simp only [Memory.find_put_ne _ _ hn]

/-! ### Words -/

theorem wordPlace_eq_next {s : State} {a p : Word} :
    wordPlace s a = .next p ↔ PerformedAt s a p := by
  have hb : a.getLsbD 0 = decide (a.toNat % 2 = 1) := by
    simp [BitVec.getLsbD, Nat.testBit_zero]
  unfold wordPlace PerformedAt
  rw [hb]
  by_cases h : a.toNat % 2 = 1
  · have h0 : ¬ a.toNat % 2 = 0 := by omega
    simp only [h, decide_true, if_true, true_and]
    cases s.cfg.misaligned with
    | refuse => simp
    | clearBit0 =>
      simp only [true_and, Host.Outcome.next.injEq]
      constructor
      · intro e
        subst e
        bv_omega
      · intro e
        bv_omega
  · have h0 : a.toNat % 2 = 0 := by omega
    simp [h0, eq_comm]

theorem PerformedAt.even {s : State} {a p : Word} (h : PerformedAt s a p) : p.toNat % 2 = 0 := by
  rcases h with ⟨h, rfl⟩ | ⟨h, -, e⟩ <;> omega

/-- An even address and the one after it do not wrap (20_memory.md R51). -/
theorem toNat_succ_of_even {p : Word} (h : p.toNat % 2 = 0) : (p + 1).toNat = p.toNat + 1 := by
  have := p.isLt
  have h1 : (1 : Word).toNat = 1 := rfl
  simp only [BitVec.toNat_add, h1]
  omega

theorem WordOfBytes_iff {o : ByteOrder} {lower upper : Byte} {v : Word} :
    WordOfBytes o lower upper v ↔ v = joinBytes o lower upper := by
  have hl := lower.isLt
  have hu := upper.isLt
  have key : ∀ x y : Byte, (x ++ y : Word).toNat = 256 * x.toNat + y.toNat := by
    intro x y
    have hy := y.isLt
    show (x ++ y).toNat = _
    rw [BitVec.toNat_append, ← Nat.shiftLeft_add_eq_or_of_lt hy, Nat.shiftLeft_eq]
    omega
  cases o <;> simp only [WordOfBytes, joinBytes] <;> constructor <;> intro h
  · apply BitVec.eq_of_toNat_eq; rw [key]; omega
  · rw [h, key]; omega
  · apply BitVec.eq_of_toNat_eq; rw [key]; omega
  · rw [h, key]

theorem wordOfBytes_lower_upper (o : ByteOrder) (v : Word) :
    WordOfBytes o (lowerByte o v) (upperByte o v) v := by
  have hv := v.isLt
  cases o <;> simp only [WordOfBytes, lowerByte, upperByte, BitVec.extractLsb'_toNat] <;>
    simp [Nat.shiftRight_eq_div_pow] <;> omega

/-- A word read succeeds exactly where the two bytes at the place of the access hold a word. -/
theorem readWord_eq_next {s : State} {a v : Word} :
    readWord s a = .next v ↔ ∃ p, PerformedAt s a p ∧ HoldsWord s p v := by
  simp only [readWord, andThen_eq_next, wordPlace_eq_next]
  constructor
  · rintro ⟨p, hp, b0, h0, b1, h1, h⟩
    cases h
    exact ⟨p, hp, b0, b1, h0, h1, WordOfBytes_iff.2 rfl⟩
  · rintro ⟨p, hp, b0, b1, h0, h1, hv⟩
    exact ⟨p, hp, b0, h0, b1, h1, by rw [WordOfBytes_iff.1 hv]⟩

/-- A word read is refused as outside memory exactly where the byte at its place is outside, or holds
a value and the byte after it is outside. -/
theorem readWord_eq_outside {s : State} {a p : Word} (hp : PerformedAt s a p) :
    readWord s a = .refused .addressOutsideMemory ↔
      s.cfg.dmemBytes ≤ p.toNat ∨ (¬ WordFits s p ∧ Memory.find s.dmem p.toNat ≠ none) := by
  have hs := toNat_succ_of_even hp.even
  have hw := wordPlace_eq_next.2 hp
  simp only [readWord, hw, andThen_next, readByte, State.inData, WordFits, decide_eq_true_eq, hs]
  by_cases h1 : p.toNat + 1 ≤ s.cfg.dmemBytes <;> simp only [h1, if_true, if_false]
  · cases Memory.find s.dmem p.toNat with
    | none =>
      simp
      omega
    | some b =>
      by_cases h2 : p.toNat + 1 + 1 ≤ s.cfg.dmemBytes <;> simp only [andThen_next, h2, if_true,
        if_false]
      · cases Memory.find s.dmem (p.toNat + 1) <;> simp <;> omega
      · simp
  · simp
    omega

/-- A word read faults exactly where the byte at its place is inside data memory and holds no value,
or holds one and the byte after it is inside and holds none. -/
theorem readWord_eq_fault {s : State} {a p : Word} (hp : PerformedAt s a p) :
    readWord s a = .fault .dataByteNoValue ↔
      (p.toNat < s.cfg.dmemBytes ∧ Memory.find s.dmem p.toNat = none) ∨
      (WordFits s p ∧ Memory.find s.dmem (p + 1).toNat = none) := by
  have hs := toNat_succ_of_even hp.even
  have hw := wordPlace_eq_next.2 hp
  simp only [readWord, hw, andThen_next, readByte, State.inData, WordFits, decide_eq_true_eq, hs]
  by_cases h1 : p.toNat + 1 ≤ s.cfg.dmemBytes <;> simp only [h1, if_true, if_false]
  · cases Memory.find s.dmem p.toNat with
    | none =>
      simp
      omega
    | some b =>
      by_cases h2 : p.toNat + 1 + 1 ≤ s.cfg.dmemBytes <;> simp only [andThen_next, h2, if_true,
        if_false]
      · cases Memory.find s.dmem (p.toNat + 1) <;> simp
      · simp
  · simp
    omega

/-- The state after the two bytes of a word are put at `p`. -/
def State.putWord (s : State) (p v : Word) : State :=
  let m := Memory.put s.dmem p.toNat (lowerByte s.cfg.byteOrder v)
  { s with dmem := Memory.put m (p + 1).toNat (upperByte s.cfg.byteOrder v) }

theorem writeWord_eq_next {s t : State} {a v : Word} :
    writeWord s a v = .next t ↔ ∃ p, PerformedAt s a p ∧ WordFits s p ∧ t = s.putWord p v := by
  simp only [writeWord, andThen_eq_next, wordPlace_eq_next]
  constructor
  · rintro ⟨p, hp, h⟩
    split at h
    · rename_i hin
      simp only [andThen_eq_next, writeByte_eq_next] at h
      obtain ⟨u, ⟨-, rfl⟩, -, rfl⟩ := h
      exact ⟨p, hp, by simpa [State.inData, WordFits] using hin, rfl⟩
    · cases h
  · rintro ⟨p, hp, hf, rfl⟩
    have hs := toNat_succ_of_even hp.even
    have hin : s.inData p 2 = true := by simpa [State.inData, WordFits] using hf
    unfold WordFits at hf
    refine ⟨p, hp, ?_⟩
    simp only [hin, if_true, andThen_eq_next, writeByte_eq_next]
    exact ⟨_, ⟨by omega, rfl⟩, by simp only [State.putByte]; omega, rfl⟩

/-- What stands where after a word is put, and that every other byte is as before. -/
theorem putWord_spec (s : State) {p v : Word} (he : p.toNat % 2 = 0) (hf : WordFits s p) :
    HoldsWord (s.putWord p v) p v ∧ Frame [] [p, p + 1] s (s.putWord p v) := by
  have hs := toNat_succ_of_even he
  unfold WordFits at hf
  have hne : p ≠ p + 1 := fun e => by
    have := congrArg BitVec.toNat e
    omega
  refine ⟨⟨lowerByte s.cfg.byteOrder v, upperByte s.cfg.byteOrder v, ?_, ?_,
    wordOfBytes_lower_upper _ _⟩, ?_⟩
  · refine readByte_eq_next.2 ⟨by simp only [State.putWord]; omega, ?_⟩
    simp only [State.putWord]
    rw [Memory.find_put_ne _ _ (by omega), Memory.find_put_same]
  · exact readByte_eq_next.2 ⟨by simp only [State.putWord]; omega, Memory.find_put_same _ _ _⟩
  · refine ⟨fun _ _ => rfl, fun a ha => ?_, fun _ => rfl, rfl, rfl⟩
    simp only [List.mem_cons, List.not_mem_nil, or_false, not_or] at ha
    have h1 : a.toNat ≠ p.toNat := fun e => ha.1 (BitVec.eq_of_toNat_eq e)
    have h2 : a.toNat ≠ (p + 1).toNat := fun e => ha.2 (BitVec.eq_of_toNat_eq e)
    unfold readByte State.inData State.putWord
    simp only [Memory.find_put_ne _ _ h1, Memory.find_put_ne _ _ h2]

@[simp] theorem putWord_cfg (s : State) (p v : Word) : (s.putWord p v).cfg = s.cfg := rfl
@[simp] theorem putWord_regs (s : State) (p v : Word) : (s.putWord p v).regs = s.regs := rfl
@[simp] theorem putWord_get (s : State) (p v : Word) (r : Reg) :
    (s.putWord p v).get r = s.get r := rfl
@[simp] theorem putWord_pc (s : State) (p v : Word) : (s.putWord p v).pc = s.pc := rfl
@[simp] theorem putWord_flags (s : State) (p v : Word) : (s.putWord p v).flags = s.flags := rfl
@[simp] theorem putWord_pmem (s : State) (p v : Word) : (s.putWord p v).pmem = s.pmem := rfl
@[simp] theorem putWord_draws (s : State) (p v : Word) : (s.putWord p v).draws = s.draws := rfl
@[simp] theorem putWord_irqOffers (s : State) (p v : Word) :
    (s.putWord p v).irqOffers = s.irqOffers := rfl

theorem putWord_wf (s : State) (p v : Word) (h : Memory.wf s.dmem = true) :
    Memory.wf (s.putWord p v).dmem = true :=
  Memory.wf_put _ (Memory.wf_put _ h p.isLt) (p + 1).isLt

theorem writeByte_wf {s t : State} {a : Word} {b : Byte} (h : writeByte s a b = .next t)
    (hw : Memory.wf s.dmem = true) : Memory.wf t.dmem = true := by
  obtain ⟨-, rfl⟩ := writeByte_eq_next.1 h
  exact Memory.wf_put _ hw a.isLt

theorem loadProgramWord_wf (s : State) (a w : Word) (h : Memory.wf s.pmem = true) :
    Memory.wf (loadProgramWord s a w).pmem = true :=
  Memory.wf_put _ h a.isLt

/-! ### Program memory -/

theorem readProg_eq_next {s : State} {a w : Word} :
    readProg s a = .next w ↔ a.toNat < s.cfg.pmemWords ∧ Memory.find s.pmem a.toNat = some w := by
  unfold readProg
  by_cases h : a.toNat < s.cfg.pmemWords
  · simp only [h, if_true, true_and]
    cases Memory.find s.pmem a.toNat <;> simp
  · simp [h]

/-! ### The stack -/

theorem pushWord_eq_next {s t : State} {v : Word} :
    pushWord s v = .next t ↔ ∃ p, PerformedAt s (s.get .sp - 2) p ∧ WordFits s p ∧
      t = (s.putWord p v).set .sp (s.get .sp - 2) := by
  simp only [pushWord, andThen_eq_next, writeWord_eq_next, Host.Outcome.next.injEq]
  constructor
  · rintro ⟨u, ⟨p, hp, hf, rfl⟩, rfl⟩
    exact ⟨p, hp, hf, rfl⟩
  · rintro ⟨p, hp, hf, rfl⟩
    exact ⟨_, ⟨p, hp, hf, rfl⟩, rfl⟩

theorem popWord_eq_next {s t : State} {v : Word} :
    popWord s = .next (v, t) ↔ ∃ p, PerformedAt s (s.get .sp) p ∧ HoldsWord s p v ∧
      t = s.set .sp (s.get .sp + 2) := by
  simp only [popWord, andThen_eq_next, readWord_eq_next, Host.Outcome.next.injEq, Prod.mk.injEq]
  constructor
  · rintro ⟨w, ⟨p, hp, hv⟩, rfl, rfl⟩
    exact ⟨p, hp, hv, rfl⟩
  · rintro ⟨p, hp, hv, rfl⟩
    exact ⟨v, ⟨p, hp, hv⟩, rfl, rfl⟩

/-- What a push does: the word stands at the place of the access, SP is two lower, and nothing else
changes. -/
theorem pushWord_spec {s t : State} {v : Word} (h : pushWord s v = .next t) :
    ∃ p, PerformedAt s (s.get .sp - 2) p ∧ WordFits s p ∧ HoldsWord t p v ∧
      t.get .sp = s.get .sp - 2 ∧ t.pc = s.pc ∧ KeepsFlags s t ∧ Frame [.sp] [p, p + 1] s t := by
  obtain ⟨p, hp, hf, rfl⟩ := pushWord_eq_next.1 h
  obtain ⟨⟨b0, b1, h0, h1, hv⟩, hfr⟩ := putWord_spec s (v := v) hp.even hf
  refine ⟨p, hp, hf, ⟨b0, b1, ?_, ?_, hv⟩, by simp, rfl, ⟨rfl, rfl⟩, ?_⟩
  · exact (readByte_congr (by rfl) (by rfl) _).trans h0
  · exact (readByte_congr (by rfl) (by rfl) _).trans h1
  · exact hfr.trans (Frame.of_fields (fun r hr => State.get_set_ne _ _ (by simpa using hr))
      rfl rfl rfl rfl) (by simp) (by simp)

/-! ### Interrupts (60_exceptions.md R236, R237) -/

theorem interruptDue_none_of_noDelivery {s : State} (h : s.cfg.irqModel = .noDelivery) :
    interruptDue s = none := by
  simp [interruptDue, h]

/-- An interrupt is due exactly under candidate_A, with I = 1, where a request is offered. -/
theorem interruptDue_eq_some {s : State} {vector : Word} :
    interruptDue s = some vector ↔ s.cfg.irqModel = .candidateA vector ∧ s.flags.i = true ∧
      s.irqOffers.head? = some true := by
  unfold interruptDue
  cases hm : s.cfg.irqModel with
  | noDelivery => simp
  | candidateA v =>
    cases ho : s.irqOffers with
    | nil => simp
    | cons b rest =>
      cases b <;> cases hi : s.flags.i <;> simp

/-- Under the premise `NoInterrupt` no interrupt entry is due, whatever `IRQ_MODEL` is. -/
theorem interruptDue_none_of_quiet {s : State} (h : ¬ RequestWhileEnabled s) :
    interruptDue s = none := by
  cases hd : interruptDue s with
  | none => rfl
  | some vector => exact absurd (interruptDue_eq_some.1 hd).2 h

/-- The premise for one step is about its one boundary. -/
theorem noInterrupt_one {s : State} : NoInterrupt 1 s ↔ ¬ RequestWhileEnabled s := by
  constructor
  · exact fun h => h 0 s Nat.one_pos rfl
  · intro h k t hk ht
    obtain rfl : k = 0 := by omega
    cases ht
    exact h

theorem run_succ_of_step {s t : State} (k : Nat) (h : step s = .next t) :
    Host.Core.run Sys2Proof.core (k + 1) s = Host.Core.run Sys2Proof.core k t := by
  have h' : Sys2Proof.core.step s = .next t := h
  simp only [Host.Core.run, h']

/-- The premise for a run holds of the rest of the run. -/
theorem NoInterrupt.tail {n : Nat} {s t : State} (h : NoInterrupt (n + 1) s)
    (hs : step s = .next t) : NoInterrupt n t := fun k u hk hu =>
  h (k + 1) u (by omega) ((run_succ_of_step k hs).trans hu)

/-- An environment that offers nothing is as it was after a boundary. -/
theorem passOffer_of_nil {s : State} (h : s.irqOffers = []) : passOffer s = s := by
  simp [passOffer, h]

/-- Passing an instruction boundary changes the environment's offers alone. -/
theorem passOffer_eq (s : State) : ∃ l, passOffer s = { s with irqOffers := l } := by
  unfold passOffer
  split
  · exact ⟨s.irqOffers, rfl⟩
  · split
    · exact ⟨_, rfl⟩
    · exact ⟨s.irqOffers, rfl⟩
  · exact ⟨_, rfl⟩

/-- Interrupt entry: two pushes, I cleared, `pc` at the vector. -/
theorem interruptEntry_eq_next {s t : State} {vector : Word} :
    interruptEntry vector s = .next t ↔
      ∃ s1 s2, pushWord s s.pc = .next s1 ∧
        pushWord s1 (packSrar s.cfg.srarLayout s.flags) = .next s2 ∧
        t = (s2.setI false).setPc vector := by
  simp only [interruptEntry, andThen_eq_next, Host.Outcome.next.injEq]
  constructor
  · rintro ⟨s1, h1, s2, h2, rfl⟩
    exact ⟨s1, s2, h1, h2, rfl⟩
  · rintro ⟨s1, s2, h1, h2, rfl⟩
    exact ⟨s1, h1, s2, h2, rfl⟩

/-- The return from an interrupt: two pops, the flags from the first, `pc` from the second. -/
theorem interruptReturn_eq_next {s t : State} :
    interruptReturn s = .next t ↔
      ∃ w s1 a s2, popWord s = .next (w, s1) ∧
        popWord (s1.setFlags (unpackSrar s.cfg.srarLayout w)) = .next (a, s2) ∧
        t = s2.setPc a := by
  simp only [interruptReturn, andThen_eq_next, Host.Outcome.next.injEq]
  constructor
  · rintro ⟨⟨w, s1⟩, h1, ⟨a, s2⟩, h2, rfl⟩
    exact ⟨w, s1, a, s2, h1, h2, rfl⟩
  · rintro ⟨w, s1, a, s2, h1, h2, rfl⟩
    exact ⟨⟨w, s1⟩, h1, ⟨a, s2⟩, h2, rfl⟩

/-! ### The fetch and the step -/

/-- What a fetch answers: the instruction of the word at `pc` and, where it takes one, the word
after it; its x bits pass `STRICT_X`. -/
theorem fetchInstr_eq_next {s : State} {i : Instr} :
    fetchInstr s = .next i ↔
      ∃ w, readProg s s.pc = .next w ∧ (decode w 0).wellFormed s.cfg.strictX = true ∧
        ((twoWords w = false ∧ i = decode w 0) ∨
         (twoWords w = true ∧ ∃ k, readProg s (s.pc + 1) = .next k ∧ i = decode w k)) := by
  simp only [fetchInstr, andThen_eq_next]
  constructor
  · rintro ⟨w, hw, h⟩
    split at h
    · rename_i hs
      split at h
      · rename_i h2
        simp only [andThen_eq_next, Host.Outcome.next.injEq] at h
        obtain ⟨k, hk, rfl⟩ := h
        exact ⟨w, hw, hs, .inr ⟨h2, k, hk, rfl⟩⟩
      · rename_i h2
        cases h
        exact ⟨w, hw, hs, .inl ⟨by simpa using h2, rfl⟩⟩
    · cases h
  · rintro ⟨w, hw, hs, ⟨h2, rfl⟩ | ⟨h2, k, hk, rfl⟩⟩
    · exact ⟨w, hw, by simp only [hs, h2, if_true, Bool.false_eq_true, if_false]⟩
    · exact ⟨w, hw, by simp only [hs, h2, if_true, hk, andThen_next]⟩

/-- One step is an interrupt entry or one instruction. -/
theorem step_eq_next {s t : State} :
    step s = .next t ↔
      (∃ vector, interruptDue s = some vector ∧ interruptEntry vector (passOffer s) = .next t) ∨
      (interruptDue s = none ∧
        ∃ i, fetchInstr (passOffer s) = .next i ∧ exec i (passOffer s) = .next t) := by
  unfold step
  cases h : interruptDue s with
  | some vector => simp
  | none => simp [andThen_eq_next]

end Sys2Proof.Machine
end

