-- ==== Sys2Proof/Laws/Operands.lean ====
section
/-! SUPPORT. What the shared shapes of Machine/Operands.lean do, in the words of Safety.lean. -/

namespace Sys2Proof.Machine

/-! ### Targets and offsets -/

theorem toInt_emod_toNat (w : Word) : w.toInt % 65536 = (w.toNat : Int) := by
  have := w.isLt
  rw [toInt_eq]
  split <;> omega

/-- A PC-relative target (30_encoding.md R90), whatever the width of the offset field. -/
theorem relTarget_relative (s : State) (offset : Word) :
    RelativeTarget s offset.toInt (relTarget s offset) := by
  have hp := s.pc.isLt
  have ho := offset.isLt
  have e := toInt_eq offset
  have h1 : (1 : Word).toNat = 1 := rfl
  unfold RelativeTarget relTarget
  cases s.cfg.relBase <;> simp only [BitVec.toNat_add, h1] <;> split at e <;> omega

theorem sext12_toInt (a : BitVec 12) : (sext12 a).toInt = a.toInt :=
  BitVec.toInt_signExtend_of_le (by omega)

theorem sext10_toInt (a : BitVec 10) : (sext10 a).toInt = a.toInt :=
  BitVec.toInt_signExtend_of_le (by omega)

theorem sext8_toInt (b : BitVec 8) : (sext8 b).toInt = b.toInt :=
  BitVec.toInt_signExtend_of_le (by omega)

theorem zext8_toNat (b : BitVec 8) : (zext8 b).toNat = b.toNat := by
  have := b.isLt
  simp only [zext8, BitVec.toNat_setWidth]
  omega

theorem lowByte_toNat (w : Word) : (lowByte w).toNat = w.toNat % 256 := by
  simp [lowByte]

theorem highByte_toNat (w : Word) : (highByte w).toNat = w.toNat / 256 := by
  have := w.isLt
  simp only [highByte, BitVec.extractLsb'_toNat, Nat.shiftRight_eq_div_pow]
  omega

/-- Every field of T4 means an offset in -16..47, under each of the three mappings (R92). -/
theorem t4Offset_range (d : T4Decode) (f : BitVec 6) : -16 ≤ t4Offset d f ∧ t4Offset d f ≤ 47 := by
  have := f.isLt
  cases d <;> simp only [t4Offset]
  · split <;> omega
  · omega
  · rw [BitVec.toInt_eq_toNat_cond]
    split <;> omega

/-- The three mappings never agree on a field (R92). -/
theorem t4Offset_injective (f : BitVec 6) (d e : T4Decode) (h : t4Offset d f = t4Offset e f) :
    d = e := by
  have hf := f.isLt
  have hs := BitVec.toInt_eq_toNat_cond f
  cases d <;> cases e <;> first
    | rfl
    | (simp only [t4Offset] at h
       split at hs <;> (try split at h) <;> omega)

/-! ### Shared shapes -/

theorem writeReg_spec (s : State) (rd : Reg) (v len : Word) :
    ∃ t, writeReg s rd v len = .next t ∧ WritesReg s t rd v len :=
  ⟨_, rfl, by simp, rfl, ⟨rfl, rfl⟩,
    .of_fields (fun _ hr => State.get_set_ne _ _ (by simpa using hr)) rfl rfl rfl rfl⟩

theorem loadWord_spec {s : State} {a p v : Word} (rd : Reg) (len : Word) (hp : PerformedAt s a p)
    (hv : HoldsWord s p v) : ∃ t, loadWord s a rd len = .next t ∧ WritesReg s t rd v len := by
  have h := readWord_eq_next.2 ⟨p, hp, hv⟩
  simpa only [loadWord, h, andThen_next] using writeReg_spec s rd v len

theorem loadByteZero_spec {s : State} {a : Word} {b : Byte} (rd : Reg) (len : Word)
    (h : readByte s a = .next b) :
    ∃ t, loadByteZero s a rd len = .next t ∧ WritesReg s t rd (zext8 b) len := by
  simpa only [loadByteZero, h, andThen_next] using writeReg_spec s rd (zext8 b) len

theorem loadByteSign_spec {s : State} {a : Word} {b : Byte} (rd : Reg) (len : Word)
    (h : readByte s a = .next b) :
    ∃ t, loadByteSign s a rd len = .next t ∧ WritesReg s t rd (sext8 b) len := by
  simpa only [loadByteSign, h, andThen_next] using writeReg_spec s rd (sext8 b) len

theorem storeWord_spec {s : State} {a p : Word} (rd : Reg) (len : Word) (hp : PerformedAt s a p)
    (hf : WordFits s p) :
    ∃ t, storeWord s a rd len = .next t ∧ StoresWord s t p (s.get rd) len := by
  have hw : writeWord s a (s.get rd) = .next (s.putWord p (s.get rd)) :=
    writeWord_eq_next.2 ⟨p, hp, hf, rfl⟩
  obtain ⟨⟨b0, b1, h0, h1, hb⟩, hfr⟩ := putWord_spec s (v := s.get rd) hp.even hf
  refine ⟨(s.putWord p (s.get rd)).advance len, by simp only [storeWord, hw, andThen_next],
    ⟨b0, b1, ?_, ?_, hb⟩, rfl, ⟨rfl, rfl⟩, ?_⟩
  · exact (readByte_congr (by rfl) (by rfl) _).trans h0
  · exact (readByte_congr (by rfl) (by rfl) _).trans h1
  · exact hfr.trans (.of_fields (fun _ _ => rfl) rfl rfl rfl rfl) (by simp) (by simp)

theorem storeByte_spec {s : State} {a : Word} (rd : Reg) (len : Word)
    (h : a.toNat < s.cfg.dmemBytes) :
    ∃ t, storeByte s a rd len = .next t ∧ StoresByte s t a (s.get rd) len := by
  have hw : writeByte s a (lowByte (s.get rd)) =
      .next (s.putByte a (lowByte (s.get rd))) :=
    writeByte_eq_next.2 ⟨h, rfl⟩
  refine ⟨(s.putByte a (lowByte (s.get rd))).advance len,
    by simp only [storeByte, hw, andThen_next],
    ⟨_, ?_, lowByte_toNat _⟩, rfl, ⟨rfl, rfl⟩, ?_⟩
  · exact (readByte_congr (by rfl) (by rfl) _).trans (readByte_put_same s a _ h)
  · refine ⟨fun _ _ => rfl, fun c hc => ?_, fun _ => rfl, rfl, rfl⟩
    exact (readByte_congr (by rfl) (by rfl) _).trans
      (readByte_put_ne s _ (by simpa using hc))

theorem callOp_spec {s : State} {p : Word} (target len : Word)
    (hp : PerformedAt s (s.get .sp - 2) p) (hf : WordFits s p) :
    ∃ t, callOp s target len = .next t ∧ Calls s t p target len := by
  have hw := pushWord_eq_next (v := s.pc + len).2 ⟨p, hp, hf, rfl⟩
  obtain ⟨⟨b0, b1, h0, h1, hb⟩, hfr⟩ := putWord_spec s (v := s.pc + len) hp.even hf
  refine ⟨((s.putWord p (s.pc + len)).set .sp (s.get .sp - 2)).setPc target,
    by simp only [callOp, hw, andThen_next], rfl, by simp, ⟨b0, b1, ?_, ?_, hb⟩,
    ⟨rfl, rfl⟩, ?_⟩
  · exact (readByte_congr (by rfl) (by rfl) _).trans h0
  · exact (readByte_congr (by rfl) (by rfl) _).trans h1
  · exact hfr.trans (.of_fields (fun _ hr => State.get_set_ne _ _ (by simpa using hr))
      rfl rfl rfl rfl) (by simp) (by simp)

theorem logicOp_spec (s : State) (rd : Reg) (r : Word) :
    ∃ t, logicOp s rd r = .next t ∧ LogicEffect s t rd r := by
  refine ⟨_, rfl, by simp, ?_, ?_, ?_, ?_, ?_⟩
  · cases h : s.cfg.logicCV <;> simp [logicFlags, h]
  · cases h : s.cfg.logicCV <;> simpa [logicFlags, h, Flags.withLogicZS] using zeroAndSign r
  · cases h : s.cfg.logicCV <;> simp [LogicCVOf, logicFlags, h, Flags.withLogicZS]
  · cases h : s.cfg.logicCV <;> exact (by simp [logicFlags, h, KeepsIAndAR, Flags.withLogicZS])
  · refine .of_fields (fun q hq => ?_) ?_ ?_ ?_ ?_
    · have hne : q ≠ rd := by simpa using hq
      rw [State.advance_get, State.get_set_ne _ _ hne]
      cases h : s.cfg.logicCV <;> simp [logicFlags, h, State.get]
    all_goals cases h : s.cfg.logicCV <;> simp [logicFlags, h]

theorem arithOp_spec (s : State) (rd : Reg) (o : AddOut) :
    ∃ t, arithOp s rd o = .next t ∧ ArithEffect s t rd o.result ∧ t.flags.c = o.carry ∧
      t.flags.v = o.overflow ∧ t.flags.az = (o.result == 0) :=
  ⟨_, rfl, ⟨by simp, rfl, zeroAndSign o.result, rfl, rfl, rfl,
    .of_fields (fun _ hr => State.get_set_ne _ _ (by simpa using hr)) rfl rfl rfl rfl⟩,
    rfl, rfl, rfl⟩

theorem arithChainedOp_spec (s : State) (rd : Reg) (o : AddOut) :
    ∃ t, arithChainedOp s rd o = .next t ∧ ArithEffect s t rd o.result ∧ t.flags.c = o.carry ∧
      t.flags.v = o.overflow ∧
      ChainedAZ s.cfg.azChain s.flags.az o.result t.flags.az := by
  refine ⟨_, rfl, ⟨by simp, rfl, zeroAndSign o.result, rfl, rfl, rfl,
    .of_fields (fun _ hr => State.get_set_ne _ _ (by simpa using hr)) rfl rfl rfl rfl⟩,
    rfl, rfl, ?_⟩
  have hz := (zeroAndSign o.result).1
  simp only [ChainedAZ, State.advance_flags, State.setFlags_flags, Flags.withChainedAR,
    Flags.withArithSR, Bool.and_eq_true, Bool.or_eq_true, Bool.not_eq_true', hz]
  cases s.cfg.azChain <;> simp

end Sys2Proof.Machine
end

