-- ==== Sys2Proof/Laws/PerInstr.lean ====
section
/-! SUPPORT. The per-instruction family EncodingLength (30_encoding.md R80, R81): how many words an
instruction's encoding has. -/

namespace Sys2Proof.Laws.EncodingLength

/-- The 13 instructions whose encoding has a second word (R81). -/
def twoWordNames : List String :=
  ["calladr", "movKr", "mov16ar", "mov8zar", "mov8sar", "mov16ra", "mov8ra",
   "movMr", "mov16Mr", "mov8zMr", "mov8sMr", "mov16rM", "mov8rM"]

/-- An instruction of R81's list has two words, every other one word. -/
def Statement (i : Instr) : Prop :=
  i.length = if twoWordNames.contains i.mnemonic then 2 else 1

/-- One lemma for each instruction of a name: its length is what the name's place in the list says. -/
theorem of_name {i : Instr} (name : String) (hm : i.mnemonic = name)
    (hl : i.length = if twoWordNames.contains name then 2 else 1) : Statement i := by
  rw [Statement, hm, hl]

theorem jmprel (a : BitVec 12) : Statement (.jmprel a) :=
  of_name "jmprel" rfl rfl

theorem callrel (a : BitVec 12) : Statement (.callrel a) :=
  of_name "callrel" rfl rfl

theorem breq (a : BitVec 10) : Statement (.breq a) :=
  of_name "breq" rfl rfl

theorem brne (a : BitVec 10) : Statement (.brne a) :=
  of_name "brne" rfl rfl

theorem bruge (a : BitVec 10) : Statement (.bruge a) :=
  of_name "bruge" rfl rfl

theorem brult (a : BitVec 10) : Statement (.brult a) :=
  of_name "brult" rfl rfl

theorem brlt (a : BitVec 10) : Statement (.brlt a) :=
  of_name "brlt" rfl rfl

theorem brge (a : BitVec 10) : Statement (.brge a) :=
  of_name "brge" rfl rfl

theorem brugt (a : BitVec 10) : Statement (.brugt a) :=
  of_name "brugt" rfl rfl

theorem brgt (a : BitVec 10) : Statement (.brgt a) :=
  of_name "brgt" rfl rfl

theorem movkr (k : BitVec 8) (rd : Reg) : Statement (.movkr k rd) :=
  of_name "movkr" rfl rfl

theorem cmpkr (k : BitVec 8) (rd : Reg) : Statement (.cmpkr k rd) :=
  of_name "cmpkr" rfl rfl

theorem addkr (k : BitVec 8) (rd : Reg) : Statement (.addkr k rd) :=
  of_name "addkr" rfl rfl

theorem subkr (k : BitVec 8) (rd : Reg) : Statement (.subkr k rd) :=
  of_name "subkr" rfl rfl

theorem andkr (k : BitVec 8) (rd : Reg) : Statement (.andkr k rd) :=
  of_name "andkr" rfl rfl

theorem orkr (k : BitVec 8) (rd : Reg) : Statement (.orkr k rd) :=
  of_name "orkr" rfl rfl

theorem xorkr (k : BitVec 8) (rd : Reg) : Statement (.xorkr k rd) :=
  of_name "xorkr" rfl rfl

theorem mov16mr (k : BitVec 6) (rs : Reg) (rd : Reg) : Statement (.mov16mr k rs rd) :=
  of_name "mov16mr" rfl rfl

theorem movs8mr (k : BitVec 6) (rs : Reg) (rd : Reg) : Statement (.movs8mr k rs rd) :=
  of_name "movs8mr" rfl rfl

theorem mov16rm (k : BitVec 6) (rs : Reg) (rd : Reg) : Statement (.mov16rm k rs rd) :=
  of_name "mov16rm" rfl rfl

theorem mov8rm (k : BitVec 6) (rs : Reg) (rd : Reg) : Statement (.mov8rm k rs rd) :=
  of_name "mov8rm" rfl rfl

theorem addrrr (rn : Reg) (rs : Reg) (rd : Reg) : Statement (.addrrr rn rs rd) :=
  of_name "addrrr" rfl rfl

theorem adcrrr (rn : Reg) (rs : Reg) (rd : Reg) : Statement (.adcrrr rn rs rd) :=
  of_name "adcrrr" rfl rfl

theorem subrrr (rn : Reg) (rs : Reg) (rd : Reg) : Statement (.subrrr rn rs rd) :=
  of_name "subrrr" rfl rfl

theorem subcrrr (rn : Reg) (rs : Reg) (rd : Reg) : Statement (.subcrrr rn rs rd) :=
  of_name "subcrrr" rfl rfl

theorem orrrr (rn : Reg) (rs : Reg) (rd : Reg) : Statement (.orrrr rn rs rd) :=
  of_name "orrrr" rfl rfl

theorem andrrr (rn : Reg) (rs : Reg) (rd : Reg) : Statement (.andrrr rn rs rd) :=
  of_name "andrrr" rfl rfl

theorem xorrrr (rn : Reg) (rs : Reg) (rd : Reg) : Statement (.xorrrr rn rs rd) :=
  of_name "xorrrr" rfl rfl

theorem mov16nr (rn : Reg) (rs : Reg) (rd : Reg) : Statement (.mov16nr rn rs rd) :=
  of_name "mov16nr" rfl rfl

theorem mov8znr (rn : Reg) (rs : Reg) (rd : Reg) : Statement (.mov8znr rn rs rd) :=
  of_name "mov8znr" rfl rfl

theorem mov8snr (rn : Reg) (rs : Reg) (rd : Reg) : Statement (.mov8snr rn rs rd) :=
  of_name "mov8snr" rfl rfl

theorem mov16rn (rn : Reg) (rs : Reg) (rd : Reg) : Statement (.mov16rn rn rs rd) :=
  of_name "mov16rn" rfl rfl

theorem mov8rn (rn : Reg) (rs : Reg) (rd : Reg) : Statement (.mov8rn rn rs rd) :=
  of_name "mov8rn" rfl rfl

theorem seleq (rn : Reg) (rs : Reg) (rd : Reg) : Statement (.seleq rn rs rd) :=
  of_name "seleq" rfl rfl

theorem selne (rn : Reg) (rs : Reg) (rd : Reg) : Statement (.selne rn rs rd) :=
  of_name "selne" rfl rfl

theorem seluge (rn : Reg) (rs : Reg) (rd : Reg) : Statement (.seluge rn rs rd) :=
  of_name "seluge" rfl rfl

theorem selult (rn : Reg) (rs : Reg) (rd : Reg) : Statement (.selult rn rs rd) :=
  of_name "selult" rfl rfl

theorem sellt (rn : Reg) (rs : Reg) (rd : Reg) : Statement (.sellt rn rs rd) :=
  of_name "sellt" rfl rfl

theorem selge (rn : Reg) (rs : Reg) (rd : Reg) : Statement (.selge rn rs rd) :=
  of_name "selge" rfl rfl

theorem selugt (rn : Reg) (rs : Reg) (rd : Reg) : Statement (.selugt rn rs rd) :=
  of_name "selugt" rfl rfl

theorem selgt (rn : Reg) (rs : Reg) (rd : Reg) : Statement (.selgt rn rs rd) :=
  of_name "selgt" rfl rfl

theorem seteq (x : BitVec 3) (rd : Reg) : Statement (.seteq x rd) :=
  of_name "seteq" rfl rfl

theorem setne (x : BitVec 3) (rd : Reg) : Statement (.setne x rd) :=
  of_name "setne" rfl rfl

theorem setuge (x : BitVec 3) (rd : Reg) : Statement (.setuge x rd) :=
  of_name "setuge" rfl rfl

theorem setult (x : BitVec 3) (rd : Reg) : Statement (.setult x rd) :=
  of_name "setult" rfl rfl

theorem setlt (x : BitVec 3) (rd : Reg) : Statement (.setlt x rd) :=
  of_name "setlt" rfl rfl

theorem setge (x : BitVec 3) (rd : Reg) : Statement (.setge x rd) :=
  of_name "setge" rfl rfl

theorem setugt (x : BitVec 3) (rd : Reg) : Statement (.setugt x rd) :=
  of_name "setugt" rfl rfl

theorem setgt (x : BitVec 3) (rd : Reg) : Statement (.setgt x rd) :=
  of_name "setgt" rfl rfl

theorem ret (x : BitVec 6) : Statement (.ret x) :=
  of_name "ret" rfl rfl

theorem reti (x : BitVec 6) : Statement (.reti x) :=
  of_name "reti" rfl rfl

theorem dint (x : BitVec 6) : Statement (.dint x) :=
  of_name "dint" rfl rfl

theorem eint (x : BitVec 6) : Statement (.eint x) :=
  of_name "eint" rfl rfl

theorem calladr (x : BitVec 6) (a : Word) : Statement (.calladr x a) :=
  of_name "calladr" rfl rfl

theorem jmpreg (x : BitVec 3) (rd : Reg) : Statement (.jmpreg x rd) :=
  of_name "jmpreg" rfl rfl

theorem callreg (x : BitVec 3) (rd : Reg) : Statement (.callreg x rd) :=
  of_name "callreg" rfl rfl

theorem push (x : BitVec 3) (rd : Reg) : Statement (.push x rd) :=
  of_name "push" rfl rfl

theorem pop (x : BitVec 3) (rd : Reg) : Statement (.pop x rd) :=
  of_name "pop" rfl rfl

theorem movSr (x : BitVec 3) (rd : Reg) : Statement (.movSr x rd) :=
  of_name "movSr" rfl rfl

theorem movrS (x : BitVec 3) (rd : Reg) : Statement (.movrS x rd) :=
  of_name "movrS" rfl rfl

theorem movKr (x : BitVec 3) (rd : Reg) (k : Word) : Statement (.movKr x rd k) :=
  of_name "movKr" rfl rfl

theorem mov16ar (x : BitVec 3) (rd : Reg) (a : Word) : Statement (.mov16ar x rd a) :=
  of_name "mov16ar" rfl rfl

theorem mov8zar (x : BitVec 3) (rd : Reg) (a : Word) : Statement (.mov8zar x rd a) :=
  of_name "mov8zar" rfl rfl

theorem mov8sar (x : BitVec 3) (rd : Reg) (a : Word) : Statement (.mov8sar x rd a) :=
  of_name "mov8sar" rfl rfl

theorem mov16ra (x : BitVec 3) (rd : Reg) (a : Word) : Statement (.mov16ra x rd a) :=
  of_name "mov16ra" rfl rfl

theorem mov8ra (x : BitVec 3) (rd : Reg) (a : Word) : Statement (.mov8ra x rd a) :=
  of_name "mov8ra" rfl rfl

theorem movrr (rs : Reg) (rd : Reg) : Statement (.movrr rs rd) :=
  of_name "movrr" rfl rfl

theorem cmprr (rs : Reg) (rd : Reg) : Statement (.cmprr rs rd) :=
  of_name "cmprr" rfl rfl

theorem zext (rs : Reg) (rd : Reg) : Statement (.zext rs rd) :=
  of_name "zext" rfl rfl

theorem sext (rs : Reg) (rd : Reg) : Statement (.sext rs rd) :=
  of_name "sext" rfl rfl

theorem bswap (rs : Reg) (rd : Reg) : Statement (.bswap rs rd) :=
  of_name "bswap" rfl rfl

theorem sextw (rs : Reg) (rd : Reg) : Statement (.sextw rs rd) :=
  of_name "sextw" rfl rfl

theorem mov16pr (rs : Reg) (rd : Reg) : Statement (.mov16pr rs rd) :=
  of_name "mov16pr" rfl rfl

theorem lsr (rs : Reg) (rd : Reg) : Statement (.lsr rs rd) :=
  of_name "lsr" rfl rfl

theorem lsl (rs : Reg) (rd : Reg) : Statement (.lsl rs rd) :=
  of_name "lsl" rfl rfl

theorem asr (rs : Reg) (rd : Reg) : Statement (.asr rs rd) :=
  of_name "asr" rfl rfl

theorem neg (rs : Reg) (rd : Reg) : Statement (.neg rs rd) :=
  of_name "neg" rfl rfl

theorem notrr (rs : Reg) (rd : Reg) : Statement (.notrr rs rd) :=
  of_name "not" rfl rfl

theorem movMr (rs : Reg) (rd : Reg) (k : Word) : Statement (.movMr rs rd k) :=
  of_name "movMr" rfl rfl

theorem mov16Mr (rs : Reg) (rd : Reg) (k : Word) : Statement (.mov16Mr rs rd k) :=
  of_name "mov16Mr" rfl rfl

theorem mov8zMr (rs : Reg) (rd : Reg) (k : Word) : Statement (.mov8zMr rs rd k) :=
  of_name "mov8zMr" rfl rfl

theorem mov8sMr (rs : Reg) (rd : Reg) (k : Word) : Statement (.mov8sMr rs rd k) :=
  of_name "mov8sMr" rfl rfl

theorem mov16rM (rs : Reg) (rd : Reg) (k : Word) : Statement (.mov16rM rs rd k) :=
  of_name "mov16rM" rfl rfl

theorem mov8rM (rs : Reg) (rd : Reg) (k : Word) : Statement (.mov8rM rs rd k) :=
  of_name "mov8rM" rfl rfl

theorem reservedT3_111 (k : BitVec 8) (rd : Reg) : Statement (.reservedT3_111 k rd) :=
  of_name "reserved.T3.111" rfl rfl

theorem reservedT5_0111 (rn : Reg) (rs : Reg) (rd : Reg) : Statement (.reservedT5_0111 rn rs rd) :=
  of_name "reserved.T5.0111" rfl rfl

theorem reservedT5_1000 (rn : Reg) (rs : Reg) (rd : Reg) : Statement (.reservedT5_1000 rn rs rd) :=
  of_name "reserved.T5.1000" rfl rfl

theorem reservedT5_1110 (rn : Reg) (rs : Reg) (rd : Reg) : Statement (.reservedT5_1110 rn rs rd) :=
  of_name "reserved.T5.1110" rfl rfl

theorem reservedT5_1111 (rn : Reg) (rs : Reg) (rd : Reg) : Statement (.reservedT5_1111 rn rs rd) :=
  of_name "reserved.T5.1111" rfl rfl

theorem reservedT8_100 (x : BitVec 6) : Statement (.reservedT8_100 x) :=
  of_name "reserved.T8.100" rfl rfl

theorem reservedT8_101 (x : BitVec 6) : Statement (.reservedT8_101 x) :=
  of_name "reserved.T8.101" rfl rfl

theorem reservedT8_110 (x : BitVec 6) : Statement (.reservedT8_110 x) :=
  of_name "reserved.T8.110" rfl rfl

theorem reservedT9_100_0 (x : BitVec 3) (rd : Reg) : Statement (.reservedT9_100_0 x rd) :=
  of_name "reserved.T9.100_0" rfl rfl

theorem reservedT9_101_0 (x : BitVec 3) (rd : Reg) : Statement (.reservedT9_101_0 x rd) :=
  of_name "reserved.T9.101_0" rfl rfl

theorem reservedT9_110_1 (x : BitVec 3) (rd : Reg) : Statement (.reservedT9_110_1 x rd) :=
  of_name "reserved.T9.110_1" rfl rfl

theorem reservedT9_111_1 (x : BitVec 3) (rd : Reg) : Statement (.reservedT9_111_1 x rd) :=
  of_name "reserved.T9.111_1" rfl rfl

theorem reservedT10_110_00 (rs : Reg) (rd : Reg) : Statement (.reservedT10_110_00 rs rd) :=
  of_name "reserved.T10.110_00" rfl rfl

theorem reservedT10_011_01 (rs : Reg) (rd : Reg) : Statement (.reservedT10_011_01 rs rd) :=
  of_name "reserved.T10.011_01" rfl rfl

theorem reservedT10_100_01 (rs : Reg) (rd : Reg) : Statement (.reservedT10_100_01 rs rd) :=
  of_name "reserved.T10.100_01" rfl rfl

theorem reservedT10_111_01 (rs : Reg) (rd : Reg) : Statement (.reservedT10_111_01 rs rd) :=
  of_name "reserved.T10.111_01" rfl rfl

theorem reservedT10_110_10 (rs : Reg) (rd : Reg) : Statement (.reservedT10_110_10 rs rd) :=
  of_name "reserved.T10.110_10" rfl rfl

theorem reservedT10_111_10 (rs : Reg) (rd : Reg) : Statement (.reservedT10_111_10 rs rd) :=
  of_name "reserved.T10.111_10" rfl rfl

theorem reservedT10_xxx_11 (op : BitVec 3) (rs : Reg) (rd : Reg) : Statement (.reservedT10_xxx_11 op rs rd) :=
  of_name "reserved.T10.xxx_11" rfl rfl

end Sys2Proof.Laws.EncodingLength
end

