-- ==== Sys2Proof/Tests/Slice0.lean ====
section
/-! SUPPORT. The model's own tests. The words and the expected results come from the spec: the bit
patterns of 30_encoding.md R100 and R103 and the worked examples of the instruction rules (R110 to
R225). The last part shows, for each statement of Certificates/Slice0/Obligations.lean that has
hypotheses, a state and operands that meet them. -/

open Sys2Proof Sys2Proof.Machine

namespace Sys2Proof.Tests

/-! ### WellFormed: each check refuses an ill-formed term -/

theorem test_wellFormed_T7_refuses : Instr.wellFormed true (.setult 7 .r3) = false := by decide

theorem test_wellFormed_T8_refuses : Instr.wellFormed true (.ret 1) = false := by decide

theorem test_wellFormed_T8_two_words_refuses : Instr.wellFormed true (.calladr 32 0) = false := by
  decide

theorem test_wellFormed_T9_refuses : Instr.wellFormed true (.push 4 .r1) = false := by decide

theorem test_wellFormed_T9_two_words_refuses : Instr.wellFormed true (.movKr 1 .r1 0) = false := by
  decide

theorem test_wellFormed_lenient_accepts : Instr.wellFormed false (.setult 7 .r3) = true := by decide

/-- The decoder refuses it by name, before it asks for a second word. -/
theorem test_strict_decoder_refuses :
    (match decodeWords true [0x0149] with
     | .error .nonzeroXBits => true
     | _ => false) = true := by decide

/-! ### Decode: a word written out from the encoding of every constructor -/

/-- The words decode to the instruction, with nothing left over. -/
def decodes (ws : List Word) (i : Instr) : Bool :=
  match decodeWords false ws with
  | .ok (j, []) => decide (j = i)
  | _ => false

/-- The words decode to the instruction, and the instruction encodes to the words. -/
def codes (p : List Word × Instr) : Bool := decodes p.1 p.2 && decide (encode p.2 = p.1)

theorem test_decode_T1 :
    List.all
      [([0b1110000000000101], .jmprel 5),
       ([0b1111111111111110], .callrel 0xFFE)] codes = true := by
  decide

theorem test_decode_T2 :
    List.all
      [([0b1100001111111101], .breq 0x3FD),
       ([0b1100011111111101], .brne 0x3FD),
       ([0b1100101111111101], .bruge 0x3FD),
       ([0b1100111111111101], .brult 0x3FD),
       ([0b1101001111111101], .brlt 0x3FD),
       ([0b1101011111111101], .brge 0x3FD),
       ([0b1101101111111101], .brugt 0x3FD),
       ([0b1101111111111101], .brgt 0x3FD)] codes = true := by
  decide

theorem test_decode_T3 :
    List.all
      [([0b1000010000001110], .movkr 0x81 .r6),
       ([0b1000110000001110], .cmpkr 0x81 .r6),
       ([0b1001010000001110], .addkr 0x81 .r6),
       ([0b1001110000001110], .subkr 0x81 .r6),
       ([0b1010010000001110], .andkr 0x81 .r6),
       ([0b1010110000001110], .orkr 0x81 .r6),
       ([0b1011010000001110], .xorkr 0x81 .r6),
       ([0b1011110000001110], .reservedT3_111 0x81 .r6)] codes = true := by
  decide

theorem test_decode_T4 :
    List.all
      [([0b0100110001111010], .mov16mr 0x31 .sp .r2),
       ([0b0101110001111010], .movs8mr 0x31 .sp .r2),
       ([0b0110110001111010], .mov16rm 0x31 .sp .r2),
       ([0b0111110001111010], .mov8rm 0x31 .sp .r2)] codes = true := by
  decide

theorem test_decode_T5 :
    List.all
      [([0b0010000001010011], .addrrr .r1 .r2 .r3),
       ([0b0010001001010011], .adcrrr .r1 .r2 .r3),
       ([0b0010010001010011], .subrrr .r1 .r2 .r3),
       ([0b0010011001010011], .subcrrr .r1 .r2 .r3),
       ([0b0010100001010011], .orrrr .r1 .r2 .r3),
       ([0b0010101001010011], .andrrr .r1 .r2 .r3),
       ([0b0010110001010011], .xorrrr .r1 .r2 .r3),
       ([0b0010111001010011], .reservedT5_0111 .r1 .r2 .r3),
       ([0b0011000001010011], .reservedT5_1000 .r1 .r2 .r3),
       ([0b0011001001010011], .mov16nr .r1 .r2 .r3),
       ([0b0011010001010011], .mov8znr .r1 .r2 .r3),
       ([0b0011011001010011], .mov8snr .r1 .r2 .r3),
       ([0b0011100001010011], .mov16rn .r1 .r2 .r3),
       ([0b0011101001010011], .mov8rn .r1 .r2 .r3),
       ([0b0011110001010011], .reservedT5_1110 .r1 .r2 .r3),
       ([0b0011111001010011], .reservedT5_1111 .r1 .r2 .r3)] codes = true := by
  decide

theorem test_decode_T6 :
    List.all
      [([0b0000001001010011], .seleq .r1 .r2 .r3),
       ([0b0000011001010011], .selne .r1 .r2 .r3),
       ([0b0000101001010011], .seluge .r1 .r2 .r3),
       ([0b0000111001010011], .selult .r1 .r2 .r3),
       ([0b0001001001010011], .sellt .r1 .r2 .r3),
       ([0b0001011001010011], .selge .r1 .r2 .r3),
       ([0b0001101001010011], .selugt .r1 .r2 .r3),
       ([0b0001111001010011], .selgt .r1 .r2 .r3)] codes = true := by
  decide

theorem test_decode_T7 :
    List.all
      [([0b0000000111100011], .seteq 4 .r3),
       ([0b0000010111100011], .setne 4 .r3),
       ([0b0000100111100011], .setuge 4 .r3),
       ([0b0000110111100011], .setult 4 .r3),
       ([0b0001000111100011], .setlt 4 .r3),
       ([0b0001010111100011], .setge 4 .r3),
       ([0b0001100111100011], .setugt 4 .r3),
       ([0b0001110111100011], .setgt 4 .r3)] codes = true := by
  decide

theorem test_decode_T8 :
    List.all
      [([0b0000000110100001], .ret 0x21),
       ([0b0000010110100001], .reti 0x21),
       ([0b0000100110100001], .dint 0x21),
       ([0b0000110110100001], .eint 0x21),
       ([0b0001000110100001], .reservedT8_100 0x21),
       ([0b0001010110100001], .reservedT8_101 0x21),
       ([0b0001100110100001], .reservedT8_110 0x21),
       ([0b0001110110000000, 0x1234], .calladr 0 0x1234)] codes = true := by
  decide

theorem test_decode_T9_one_word :
    List.all
      [([0b0000000100001101], .jmpreg 1 .r5),
       ([0b0000010100001101], .callreg 1 .r5),
       ([0b0000100100001101], .push 1 .r5),
       ([0b0000110100001101], .pop 1 .r5),
       ([0b0001000100001101], .reservedT9_100_0 1 .r5),
       ([0b0001010100001101], .reservedT9_101_0 1 .r5),
       ([0b0001100100001101], .movSr 1 .r5),
       ([0b0001110100001101], .movrS 1 .r5),
       ([0b0001100101001101], .reservedT9_110_1 1 .r5),
       ([0b0001110101001101], .reservedT9_111_1 1 .r5)] codes = true := by
  decide

theorem test_decode_T9_two_words :
    List.all
      [([0b0000000101000110, 0xBEEF], .movKr 0 .r6 0xBEEF),
       ([0b0000010101000110, 0xBEEF], .mov16ar 0 .r6 0xBEEF),
       ([0b0000100101000110, 0xBEEF], .mov8zar 0 .r6 0xBEEF),
       ([0b0000110101000110, 0xBEEF], .mov8sar 0 .r6 0xBEEF),
       ([0b0001000101000110, 0xBEEF], .mov16ra 0 .r6 0xBEEF),
       ([0b0001010101000110, 0xBEEF], .mov8ra 0 .r6 0xBEEF)] codes = true := by
  decide

theorem test_decode_T10_one_word :
    List.all
      [([0b0000000000001010], .movrr .r1 .r2),
       ([0b0000010000001010], .cmprr .r1 .r2),
       ([0b0000100000001010], .zext .r1 .r2),
       ([0b0000110000001010], .sext .r1 .r2),
       ([0b0001000000001010], .bswap .r1 .r2),
       ([0b0001010000001010], .sextw .r1 .r2),
       ([0b0001100000001010], .reservedT10_110_00 .r1 .r2),
       ([0b0001110000001010], .mov16pr .r1 .r2),
       ([0b0000000001001010], .lsr .r1 .r2),
       ([0b0000010001001010], .lsl .r1 .r2),
       ([0b0000100001001010], .asr .r1 .r2),
       ([0b0000110001001010], .reservedT10_011_01 .r1 .r2),
       ([0b0001000001001010], .reservedT10_100_01 .r1 .r2),
       ([0b0001010001001010], .neg .r1 .r2),
       ([0b0001100001001010], .notrr .r1 .r2),
       ([0b0001110001001010], .reservedT10_111_01 .r1 .r2),
       ([0b0001100010001010], .reservedT10_110_10 .r1 .r2),
       ([0b0001110010001010], .reservedT10_111_10 .r1 .r2),
       ([0b0001010011001010], .reservedT10_xxx_11 5 .r1 .r2)] codes = true := by
  decide

theorem test_decode_T10_two_words :
    List.all
      [([0b0000000010001010, 0xFFFE], .movMr .r1 .r2 0xFFFE),
       ([0b0000010010001010, 0xFFFE], .mov16Mr .r1 .r2 0xFFFE),
       ([0b0000100010001010, 0xFFFE], .mov8zMr .r1 .r2 0xFFFE),
       ([0b0000110010001010, 0xFFFE], .mov8sMr .r1 .r2 0xFFFE),
       ([0b0001000010001010, 0xFFFE], .mov16rM .r1 .r2 0xFFFE),
       ([0b0001010010001010, 0xFFFE], .mov8rM .r1 .r2 0xFFFE)] codes = true := by
  decide

/-- The NOP is the all-zero word (R97). -/
theorem test_decode_nop : decodes [0x0000] (.movrr .r0 .r0) = true := by decide

theorem test_decode_missing_second_word :
    (match decodeWords false [0x0140] with
     | .error .missingSecondWord => true
     | _ => false) = true := by decide

/-- The table's numbering: the first word is bits 15:0, the second bits 31:16. -/
theorem test_decodeTableWord :
    decodeTableWord 32 0xBEEF0146 = some (.movKr 0 .r6 0xBEEF) ∧
    decodeTableWord 16 0x0146 = some (.movKr 0 .r6 0) := by decide

/-! ### The meanings, on the worked examples of the rules -/

/-- A state with values in R1, R2, R3 and SP, and the data bytes of the rules' examples. -/
def small (r1 r2 r3 sp : Word) : State :=
  { State.reset with
    regs := { r0 := 0, r1 := r1, r2 := r2, r3 := r3, r4 := 0, r5 := 0, r6 := 0, sp := sp }
    dmem := [(0x0100, 0x34), (0x0101, 0x12), (0x0102, 0x80), (0x0103, 0xFF)] }

/-- The state after one step that runs the words at `pc`. -/
def after (s : State) (w k : Word) : Option State := Res.value? (step (placeAtPc s w k))

/-- A register after the step. -/
def regAfter (s : State) (w k : Word) (r : Reg) : Option Word :=
  (after s w k).map fun t => t.get r

/-- `pc` after the step. -/
def pcAfter (s : State) (w k : Word) : Option Word := (after s w k).map fun t => t.pc

/-- A data byte after the step. -/
def byteAfter (s : State) (w k a : Word) : Option Byte :=
  (after s w k).bind fun t => Res.value? (readByte t a)

/-- V, S, C, Z after the step, as the bits of a number, V the highest. -/
def srAfter (s : State) (w k : Word) : Option Nat :=
  (after s w k).map fun t =>
    8 * flagNat t.flags.v + 4 * flagNat t.flags.s + 2 * flagNat t.flags.c + flagNat t.flags.z

/-- AC and AZ after the step, as the bits of a number. -/
def arAfter (s : State) (w k : Word) : Option Nat :=
  (after s w k).map fun t => 2 * flagNat t.flags.ac + flagNat t.flags.az

/-- S and Z after the step, as the bits of a number. -/
def szAfter (s : State) (w k : Word) : Option Nat :=
  (after s w k).map fun t => 2 * flagNat t.flags.s + flagNat t.flags.z

/-- A state with the four SR flags given. -/
def flagged (v s c z : Bool) : State :=
  (small 0xAAAA 0xBBBB 0 0x0200).setFlags
    { i := false, v := v, s := s, c := c, z := z, ac := false, az := false }

/-- A state with AC given. -/
def withAC (s : State) (ac : Bool) : State := s.setFlags { s.flags with ac := ac }

/-- A state at a program address. -/
def placed (s : State) (pc : Word) : State := s.setPc pc

/-- A state with big byte order. -/
def bigEndian (s : State) : State := { s with cfg := { s.cfg with byteOrder := .big } }

theorem test_jmprel_R110 :
    pcAfter (placed (small 0 0 0 0x0200) 0x0010) 0xE005 0 = some 0x0016 ∧
    pcAfter (placed (small 0 0 0 0x0200) 0x0010) 0xEFFF 0 = some 0x0010 := by decide

theorem test_callrel_R111 :
    pcAfter (placed (small 0 0 0 0x0200) 0x0100) 0xFFFE 0 = some 0x00FF ∧
    regAfter (placed (small 0 0 0 0x0200) 0x0100) 0xFFFE 0 .sp = some 0x01FE ∧
    byteAfter (placed (small 0 0 0 0x0200) 0x0100) 0xFFFE 0 0x01FF = some 0x01 := by decide

theorem test_brne_R112 :
    pcAfter (placed (flagged false false false false) 0x0004) 0xC7FD 0 = some 0x0002 ∧
    pcAfter (placed (flagged false false false true) 0x0004) 0xC7FD 0 = some 0x0005 := by decide

theorem test_breq_R112 :
    pcAfter (flagged false false false true) 0xc005 0 = some 6 ∧
    pcAfter (flagged true true true false) 0xc005 0 = some 1 := by decide

theorem test_bruge_R112 :
    pcAfter (flagged false false true false) 0xc805 0 = some 6 ∧
    pcAfter (flagged true true false true) 0xc805 0 = some 1 := by decide

theorem test_brult_R112 :
    pcAfter (flagged false false false true) 0xcc05 0 = some 6 ∧
    pcAfter (flagged true true true false) 0xcc05 0 = some 1 := by decide

theorem test_brlt_R112 :
    pcAfter (flagged true false false false) 0xd005 0 = some 6 ∧
    pcAfter (flagged true true true false) 0xd005 0 = some 1 := by decide

theorem test_brge_R112 :
    pcAfter (flagged true true false false) 0xd405 0 = some 6 ∧
    pcAfter (flagged false true true true) 0xd405 0 = some 1 := by decide

theorem test_brugt_R112 :
    pcAfter (flagged false false true false) 0xd805 0 = some 6 ∧
    pcAfter (flagged false false true true) 0xd805 0 = some 1 := by decide

theorem test_brgt_R112 :
    pcAfter (flagged false false false false) 0xdc05 0 = some 6 ∧
    pcAfter (flagged true true true true) 0xdc05 0 = some 1 := by decide

theorem test_movkr_R120 :
    regAfter (small 0 0 0 0x0200) 0x87FA 0 .r2 = some 0xFFFF ∧
    regAfter (small 0 0 0 0x0200) 0x83FA 0 .r2 = some 0x007F := by decide

theorem test_cmpkr_R121 :
    srAfter (small 0x8000 0 0 0x0200) 0x8809 0 = some 0b1010 ∧
    srAfter (small 0 0 0 0x0200) 0x8FF9 0 = some 0b0000 ∧
    srAfter (small 0x7FFF 0 0 0x0200) 0x8C01 0 = some 0b1100 := by decide

theorem test_addkr_R122 :
    regAfter (small 0 0 0 0xFFFF) 0x900F 0 .sp = some 0x0000 ∧
    srAfter (small 0 0 0 0xFFFF) 0x900F 0 = some 0b0011 ∧
    arAfter (small 0 0 0 0xFFFF) 0x900F 0 = some 0b11 ∧
    regAfter (small 1 0 0 0x0200) 0x97F9 0 .r1 = some 0x0100 := by decide

theorem test_subkr_R123 :
    regAfter (small 0 0 0 0x0200) 0x9FFF 0 .sp = some 0x0101 ∧
    srAfter (small 0x8000 0 0 0x0200) 0x9809 0 = some 0b1010 ∧
    srAfter (small 0 0 0 0x0200) 0x9808 0 = some 0b0100 ∧
    arAfter (small 0 0 0 0x0200) 0x9808 0 = some 0b00 := by decide

theorem test_andkr_R124 :
    regAfter (small 0x1234 0 0 0x0200) 0xA781 0 .r1 = some 0x0030 ∧
    szAfter (small 0x1234 0 0 0x0200) 0xA781 0 = some 0b00 := by decide

theorem test_orkr_R125 :
    regAfter (small 0x1200 0 0 0x0200) 0xAFF9 0 .r1 = some 0x12FF := by decide

theorem test_xorkr_R126 :
    regAfter (small 0 0 0x8000 0x0200) 0xB00B 0 .r3 = some 0x8001 ∧
    szAfter (small 0 0 0x8000 0x0200) 0xB00B 0 = some 0b10 ∧
    szAfter (small 0x00FF 0 0 0x0200) 0xB7F9 0 = some 0b01 := by decide

theorem test_mov16mr_R130 :
    regAfter (small 0x0100 0 0 0x0200) 0x408A 0 .r2 = some 0xFF80 ∧
    regAfter (bigEndian (small 0x0100 0 0 0x0200)) 0x408A 0 .r2 = some 0x80FF ∧
    regAfter (small 0x0100 0 0 0x0200) 0x4009 0 .r1 = some 0x1234 := by decide

theorem test_movs8mr_R131 :
    regAfter (small 0x0100 0 0 0x0200) 0x508A 0 .r2 = some 0xFF80 ∧
    regAfter (small 0x0100 0 0 0x0200) 0x500A 0 .r2 = some 0x0034 := by decide

theorem test_mov16rm_R132 :
    byteAfter (small 0 0 0xBEEF 0x01F0) 0x613B 0 0x01F4 = some 0xEF ∧
    byteAfter (small 0 0 0xBEEF 0x01F0) 0x613B 0 0x01F5 = some 0xBE ∧
    byteAfter (bigEndian (small 0 0 0xBEEF 0x01F0)) 0x613B 0 0x01F4 = some 0xBE := by decide

theorem test_mov8rm_R133 :
    byteAfter (small 0x0100 0 0xBEEF 0x0200) 0x7FCB 0 0x00FF = some 0xEF ∧
    byteAfter (small 0x0100 0 0xBEEF 0x0200) 0x7FCB 0 0x0100 = some 0x34 := by decide

theorem test_addrrr_R140 :
    regAfter (small 0x8000 0x8000 0 0x0200) 0x2053 0 .r3 = some 0x0000 ∧
    srAfter (small 0x8000 0x8000 0 0x0200) 0x2053 0 = some 0b1011 ∧
    srAfter (small 0x7FFF 0x0001 0 0x0200) 0x2053 0 = some 0b1100 := by decide

theorem test_adcrrr_R141 :
    regAfter (withAC (small 0xFFFF 0xFFFF 0 0x0200) true) 0x2253 0 .r3 = some 0xFFFF ∧
    srAfter (withAC (small 0xFFFF 0xFFFF 0 0x0200) true) 0x2253 0 = some 0b0110 ∧
    regAfter (withAC (small 1 0 0 0x0200) false) 0x2253 0 .r3 = some 0x0001 := by decide

theorem test_subrrr_R142 :
    regAfter (small 3 5 0 0x0200) 0x2453 0 .r3 = some 0xFFFE ∧
    srAfter (small 3 5 0 0x0200) 0x2453 0 = some 0b0100 ∧
    srAfter (small 0x0000 0x8000 0 0x0200) 0x2453 0 = some 0b1100 ∧
    arAfter (small 5 5 0 0x0200) 0x2453 0 = some 0b11 := by decide

theorem test_subcrrr_R143 :
    regAfter (withAC (small 5 0xFFFF 0 0x0200) false) 0x2653 0 .r3 = some 0x0005 ∧
    srAfter (withAC (small 5 0xFFFF 0 0x0200) false) 0x2653 0 = some 0b0000 ∧
    regAfter (withAC (small 0 0 0 0x0200) false) 0x2653 0 .r3 = some 0xFFFF := by decide

theorem test_orrrr_R144 :
    regAfter (small 0x00F0 0x0F00 0 0x0200) 0x2853 0 .r3 = some 0x0FF0 ∧
    szAfter (small 0x00F0 0x0F00 0 0x0200) 0x2853 0 = some 0b00 := by decide

theorem test_andrrr_R145 :
    regAfter (small 0xFF00 0x0FF0 0 0x0200) 0x2A53 0 .r3 = some 0x0F00 ∧
    szAfter (small 0xFF00 0x00FF 0 0x0200) 0x2A53 0 = some 0b01 := by decide

theorem test_xorrrr_R146 :
    regAfter (small 0xFFFF 0x7FFF 0 0x0200) 0x2C53 0 .r3 = some 0x8000 ∧
    szAfter (small 0xFFFF 0x7FFF 0 0x0200) 0x2C53 0 = some 0b10 := by decide

theorem test_mov16nr_R150 :
    regAfter (small 0xFFFF 0x0101 0 0x0200) 0x3253 0 .r3 = some 0x1234 ∧
    after (small 0x0100 0x0001 0 0x0200) 0x3253 0 = none := by decide

theorem test_mov8znr_R151 :
    regAfter (small 0x0100 0x0002 0 0x0200) 0x3453 0 .r3 = some 0x0080 := by decide

theorem test_mov8snr_R152 :
    regAfter (small 0x0100 0x0002 0 0x0200) 0x3653 0 .r3 = some 0xFF80 ∧
    regAfter (small 0x0100 0x0001 0 0x0200) 0x3653 0 .r3 = some 0x0012 := by decide

theorem test_mov16rn_R153 :
    byteAfter (small 0x0200 0x0004 0xCAFE 0x0200) 0x3853 0 0x0204 = some 0xFE ∧
    byteAfter (small 0x0200 0x0004 0xCAFE 0x0200) 0x3853 0 0x0205 = some 0xCA := by decide

theorem test_mov8rn_R154 :
    byteAfter (small 0x0200 0x0005 0xCAFE 0x0200) 0x3A53 0 0x0205 = some 0xFE ∧
    byteAfter (small 0x0200 0x0005 0xCAFE 0x0200) 0x3A53 0 0x0204 = none := by decide

theorem test_seleq_R160 :
    regAfter (flagged false false false true) 0x0253 0 .r3 = some 0xAAAA ∧
    regAfter (flagged true true true false) 0x0253 0 .r3 = some 0xBBBB := by decide

theorem test_selne_R160 :
    regAfter (flagged false false false false) 0x0653 0 .r3 = some 0xAAAA ∧
    regAfter (flagged false false false true) 0x0653 0 .r3 = some 0xBBBB := by decide

theorem test_seluge_R160 :
    regAfter (flagged false false true false) 0x0A53 0 .r3 = some 0xAAAA ∧
    regAfter (flagged true true false true) 0x0A53 0 .r3 = some 0xBBBB := by decide

theorem test_selult_R160 :
    regAfter (flagged false false false true) 0x0E53 0 .r3 = some 0xAAAA ∧
    regAfter (flagged true true true false) 0x0E53 0 .r3 = some 0xBBBB := by decide

theorem test_sellt_R160 :
    regAfter (flagged true false false false) 0x1253 0 .r3 = some 0xAAAA ∧
    regAfter (flagged true true true false) 0x1253 0 .r3 = some 0xBBBB := by decide

theorem test_selge_R160 :
    regAfter (flagged true true false false) 0x1653 0 .r3 = some 0xAAAA ∧
    regAfter (flagged false true true true) 0x1653 0 .r3 = some 0xBBBB := by decide

theorem test_selugt_R160 :
    regAfter (flagged false false true false) 0x1A53 0 .r3 = some 0xAAAA ∧
    regAfter (flagged false false true true) 0x1A53 0 .r3 = some 0xBBBB := by decide

theorem test_selgt_R160 :
    regAfter (flagged false false false false) 0x1E53 0 .r3 = some 0xAAAA ∧
    regAfter (flagged true true true true) 0x1E53 0 .r3 = some 0xBBBB := by decide

theorem test_seteq_R161 :
    regAfter (flagged false false false true) 0x01C3 0 .r3 = some 0x0001 ∧
    regAfter (flagged true true true false) 0x01C3 0 .r3 = some 0x0000 := by decide

theorem test_setne_R161 :
    regAfter (flagged false false false false) 0x05C3 0 .r3 = some 0x0001 ∧
    regAfter (flagged false false false true) 0x05C3 0 .r3 = some 0x0000 := by decide

theorem test_setuge_R161 :
    regAfter (flagged false false true false) 0x09C3 0 .r3 = some 0x0001 ∧
    regAfter (flagged true true false true) 0x09C3 0 .r3 = some 0x0000 := by decide

theorem test_setult_R161 :
    regAfter (flagged false false false true) 0x0DC3 0 .r3 = some 0x0001 ∧
    regAfter (flagged true true true false) 0x0DC3 0 .r3 = some 0x0000 := by decide

theorem test_setlt_R161 :
    regAfter (flagged true false false false) 0x11C3 0 .r3 = some 0x0001 ∧
    regAfter (flagged true true true false) 0x11C3 0 .r3 = some 0x0000 := by decide

theorem test_setge_R161 :
    regAfter (flagged true true false false) 0x15C3 0 .r3 = some 0x0001 ∧
    regAfter (flagged false true true true) 0x15C3 0 .r3 = some 0x0000 := by decide

theorem test_setugt_R161 :
    regAfter (flagged false false true false) 0x19C3 0 .r3 = some 0x0001 ∧
    regAfter (flagged false false true true) 0x19C3 0 .r3 = some 0x0000 := by decide

theorem test_setgt_R161 :
    regAfter (flagged false false false false) 0x1DC3 0 .r3 = some 0x0001 ∧
    regAfter (flagged true true true true) 0x1DC3 0 .r3 = some 0x0000 := by decide

/-- A state whose stack holds the word 0x1234 at 0x0100 and 0xFF80 at 0x0102. -/
def stacked : State := small 0x0300 0xBEEF 0 0x0100

/-- A state under candidate_A with the vector 0x0040, I = 1, and one request offered. -/
def interrupted : State :=
  { small 0 0 0 0x0200 with
    cfg := { defaultConfig with irqModel := .candidateA 0x0040 }
    flags := { i := true, v := false, s := true, c := true, z := false, ac := true, az := false }
    pc := 0x0010
    irqOffers := [true] }

theorem test_ret_R170 :
    pcAfter (stacked) 0x0180 0 = some 0x1234 ∧
    regAfter (stacked) 0x0180 0 .sp = some 0x0102 := by decide

theorem test_calladr_R171 :
    pcAfter (placed (small 0 0 0 0x0200) 0x0010) 0x1D80 0x1234 = some 0x1234 ∧
    byteAfter (placed (small 0 0 0 0x0200) 0x0010) 0x1D80 0x1234 0x01FE = some 0x12 ∧
    byteAfter (placed (small 0 0 0 0x0200) 0x0010) 0x1D80 0x1234 0x01FF = some 0x00 := by decide

/-- Without interrupts `reti` is refused by name; under candidate_A it pops SRAR and then `pc`. -/
theorem test_reti_R172 :
    (match exec (.reti 0) stacked with
     | .refused .retiNotSpecified => true
     | _ => false) = true ∧
    (Res.value? (exec (.reti 0) { interrupted with
      regs := stacked.regs })).map (fun t => (t.pc, t.get .sp, packSrar defaultLayout t.flags)) =
        some (0xFF80, 0x0104, 0x0034) := by decide

/-- Interrupt entry (R237): the address of the instruction not yet executed, then SRAR below it. -/
theorem test_interrupt_entry_R237 :
    (Res.value? (step interrupted)).map (fun t => (t.pc, t.get .sp, t.flags.i, t.irqOffers)) =
      some (0x0040, 0x01FC, false, []) ∧
    (Res.value? (step interrupted)).bind (fun t => Res.value? (readWord t 0x01FE)) = some 0x0010 ∧
    (Res.value? (step interrupted)).bind (fun t => Res.value? (readWord t 0x01FC)) =
      some 0x005A := by decide

theorem test_dint_R173 :
    (after (stacked.setI true) 0x0980 0).map (fun t => t.flags.i) = some false := by decide

theorem test_eint_R174 :
    (after stacked 0x0D80 0).map (fun t => t.flags.i) = some true := by decide

theorem test_jmpreg_R180 :
    pcAfter (small 0 0xBEEF 0 0x0200) 0x0102 0 = some 0xBEEF ∧
    pcAfter (small 0 0 0 0x0200) 0x0107 0 = some 0x0200 := by decide

theorem test_callreg_R181 :
    pcAfter (placed (small 0 0x0300 0 0x0200) 0x0020) 0x0502 0 = some 0x0300 ∧
    byteAfter (placed (small 0 0x0300 0 0x0200) 0x0020) 0x0502 0 0x01FE = some 0x21 ∧
    pcAfter (placed (small 0 0x0300 0 0x0200) 0x0020) 0x0507 0 = some 0x0200 := by decide

theorem test_push_R182 :
    byteAfter (small 0xCAFE 0 0 0x0200) 0x0901 0 0x01FE = some 0xFE ∧
    byteAfter (small 0xCAFE 0 0 0x0200) 0x0901 0 0x01FF = some 0xCA ∧
    regAfter (small 0xCAFE 0 0 0) 0x0901 0 .sp = some 0xFFFE ∧
    after (small 0 0 0 0x0200) 0x0907 0 = none := by decide

theorem test_pop_R183 :
    regAfter (stacked) 0x0D04 0 .r4 = some 0x1234 ∧
    regAfter (stacked) 0x0D04 0 .sp = some 0x0102 ∧
    after stacked 0x0D07 0 = none := by decide

theorem test_movSr_R184 :
    regAfter { interrupted with
      irqOffers := [] } 0x1905 0 .r5 = some 0x005A := by decide

theorem test_movrS_R185 :
    (after (small 0xFFD5 0 0 0) 0x1D01 0).map (fun t => packSrar defaultLayout t.flags) =
      some 0x0055 := by decide

theorem test_movKr_R190 :
    regAfter (small 0 0 0 0x0200) 0x0146 0xBEEF .r6 = some 0xBEEF ∧
    pcAfter (placed (small 0 0 0 0x0200) 0xFFFF) 0x0146 0xBEEF = some 0x0001 := by decide

theorem test_mov16ar_R191 :
    regAfter (small 0 0 0 0x0200) 0x0542 0x0100 .r2 = some 0x1234 ∧
    regAfter (bigEndian (small 0 0 0 0x0200)) 0x0542 0x0100 .r2 = some 0x3412 ∧
    after (small 0 0 0 0x0200) 0x0542 0x0101 = none := by decide

theorem test_mov8zar_R192 :
    regAfter (small 0 0 0 0x0200) 0x0942 0x0102 .r2 = some 0x0080 := by decide

theorem test_mov8sar_R193 :
    regAfter (small 0 0 0 0x0200) 0x0D42 0x0102 .r2 = some 0xFF80 := by decide

theorem test_mov16ra_R194 :
    byteAfter (small 0 0x1234 0 0x0200) 0x1142 0x0300 0x0300 = some 0x34 ∧
    byteAfter (small 0 0x1234 0 0x0200) 0x1142 0x0300 0x0301 = some 0x12 := by decide

theorem test_mov8ra_R195 :
    byteAfter (small 0 0x1234 0 0x0200) 0x1542 0x0301 0x0301 = some 0x34 ∧
    byteAfter (small 0 0x1234 0 0x0200) 0x1542 0x0301 0x0302 = none := by decide

theorem test_movrr_R200 :
    regAfter (small 0xBEEF 0 0 0x0200) 0x000A 0 .r2 = some 0xBEEF ∧
    regAfter (small 0x0400 0 0 0x0200) 0x000F 0 .sp = some 0x0400 := by decide

/-- The NOP changes nothing but `pc` (R97). -/
theorem test_nop_R97 : Res.value? (exec (.movrr .r0 .r0) stacked) = some (stacked.setPc 1) := by
  decide

theorem test_cmprr_R201 :
    srAfter (small 5 3 0 0x0200) 0x040A 0 = some 0b0100 ∧
    srAfter (small 1 0x8000 0 0x0200) 0x040A 0 = some 0b1010 ∧
    srAfter (small 0xFFFF 0x7FFF 0 0x0200) 0x040A 0 = some 0b1100 := by decide

theorem test_zext_R202 :
    regAfter (small 0xABCD 0 0 0x0200) 0x080A 0 .r2 = some 0x00CD := by decide

theorem test_sext_R203 :
    regAfter (small 0xAB80 0 0 0x0200) 0x0C0A 0 .r2 = some 0xFF80 ∧
    regAfter (small 0xFF7F 0 0 0x0200) 0x0C0A 0 .r2 = some 0x007F := by decide

theorem test_bswap_R204 :
    regAfter (small 0x1234 0 0 0x0200) 0x100A 0 .r2 = some 0x3412 := by decide

theorem test_sextw_R205 :
    regAfter (small 0x8000 0 0 0x0200) 0x140A 0 .r2 = some 0xFFFF ∧
    regAfter (small 0x7FFF 0 0 0x0200) 0x140A 0 .r2 = some 0x0000 := by decide

theorem test_mov16pr_R206 :
    regAfter (loadProgramWord (small 0x0040 0 0 0) 0x0040 0xCAFE) 0x1C0A 0 .r2 = some 0xCAFE ∧
    after (small 0x0040 0 0 0) 0x1C0A 0 = none := by decide

theorem test_lsr_R210 :
    regAfter (small 0x8001 0 0 0x0200) 0x004A 0 .r2 = some 0x4000 := by decide

theorem test_lsl_R211 :
    regAfter (small 0x8001 0 0 0x0200) 0x044A 0 .r2 = some 0x0002 ∧
    regAfter (small 0x4000 0 0 0x0200) 0x044A 0 .r2 = some 0x8000 := by decide

theorem test_asr_R212 :
    regAfter (small 0x8001 0 0 0x0200) 0x084A 0 .r2 = some 0xC000 ∧
    regAfter (small 0xFFFF 0 0 0x0200) 0x084A 0 .r2 = some 0xFFFF := by decide

theorem test_neg_R213 :
    regAfter (small 0x0001 0 0 0x0200) 0x144A 0 .r2 = some 0xFFFF ∧
    szAfter (small 0x8000 0 0 0x0200) 0x144A 0 = some 0b10 ∧
    szAfter (small 0x0000 0 0 0x0200) 0x144A 0 = some 0b01 := by decide

theorem test_notrr_R214 :
    regAfter (small 0x00FF 0 0 0x0200) 0x184A 0 .r2 = some 0xFF00 ∧
    szAfter (small 0xFFFF 0 0 0x0200) 0x184A 0 = some 0b01 := by decide

theorem test_movMr_R220 :
    regAfter (small 0x0234 0 0 0x0200) 0x008A 0xFFFF .r2 = some 0x0233 ∧
    regAfter (small 0 0 0 0x0200) 0x00BF 0xFFFC .sp = some 0x01FC ∧
    srAfter (flagged true true true true) 0x008A 0xFFFF = some 0b1111 := by decide

theorem test_mov16Mr_R221 :
    regAfter (small 0x0102 0 0 0x0200) 0x048A 0xFFFE .r2 = some 0x1234 ∧
    after (small 0x0100 0 0 0x0200) 0x048A 0x0001 = none := by decide

theorem test_mov8zMr_R222 :
    regAfter (small 0x0002 0 0 0x0200) 0x088A 0x0100 .r2 = some 0x0080 := by decide

theorem test_mov8sMr_R223 :
    regAfter (small 0x0002 0 0 0x0200) 0x0C8A 0x0100 .r2 = some 0xFF80 ∧
    regAfter (small 0x0001 0 0 0x0200) 0x0C8A 0x0100 .r2 = some 0x0012 := by decide

theorem test_mov16rM_R224 :
    byteAfter (small 0x0004 0xCAFE 0 0x0200) 0x108A 0x0200 0x0204 = some 0xFE ∧
    byteAfter (small 0x0004 0xCAFE 0 0x0200) 0x108A 0x0200 0x0205 = some 0xCA := by decide

theorem test_mov8rM_R225 :
    byteAfter (small 0x0005 0xCAFE 0 0x0200) 0x148A 0x0200 0x0205 = some 0xFE ∧
    byteAfter (small 0x0005 0xCAFE 0 0x0200) 0x148A 0x0200 0x0204 = none := by decide

/-- Every reserved row's own word is refused as reserved (R100). -/
theorem test_reserved_refused :
    (reservedMap.all fun row =>
      match step (placeAtPc stacked (BitVec.ofNat 16 row.value) 0) with
      | .refused .reservedEncoding => true
      | _ => false) = true := by decide

/-- `withFetchWord` makes the very next step run the instruction, after reset too, and although an
interrupt is due. -/
theorem test_withFetchWord :
    (Res.value? (step (State.reset.withFetchWord 32 0xBEEF0146))).map (fun t => t.get .r6) =
      some 0xBEEF ∧
    (Res.value? (step (interrupted.withFetchWord 16 0x83FA))).map (fun t => t.get .r2) =
      some 0x007F := by decide

/-- Another `RESET_PC`, with a program loaded there: its first instruction runs first (R250, R255). -/
theorem test_launch_R250 :
    (Res.value? (step (State.launch { defaultConfig with resetPc := 0x0200 } [(0x0200, 0x83FA)] [] []))).map
      (fun t => (t.pc, t.get .r2)) = some (0x0201, 0x007F) := by decide

/-- Right after reset no program is loaded: the first step faults (R252). -/
theorem test_first_step_from_reset :
    (match step State.reset with
     | .fault .programWordNoValue => true
     | _ => false) = true := by decide

/-- A store keeps the canonical form, in whatever order the addresses come. -/
theorem test_memory_form :
    (after (small 0x0004 0xCAFE 0 0) 0x108A 0x0050).map (fun t => Memory.wf t.dmem) = some true ∧
    Memory.wf [(2, (0 : Byte)), (1, 0)] = false := by decide

/-! ### Witnesses: the hypotheses of each statement can be met -/

theorem witness_DecodeOfEncodeIsIdentity :
    Instr.wellFormed true (.ret 0) = true ∧ Instr.wellFormed false (.ret 63) = true := by
  decide

theorem witness_EncodeOfDecodeIsIdentity :
    decodeWords true [0x0146, 0xBEEF, 0x0000] = .ok (.movKr 0 .r6 0xBEEF, [0x0000]) :=
  rfl

theorem witness_OpcodeMapMatchesDecoder :
    (⟨"reserved.T10.xxx_11", 0x00C0, 0xE3C0, 1⟩ : OpcodeRow) ∈ opcodeMap ∧
    (⟨"reserved.T10.xxx_11", 0x00C0, 0xE3C0, 1⟩ : OpcodeRow).matches 0x1CFF = true := by
  decide

/-- A state about to run a word, with no interrupt due. -/
def ready (w k : Word) : State := placeAtPc stacked w k

theorem ready_noInterrupt (w k : Word) : NoInterrupt 1 (ready w k) :=
  noInterrupt_one.2 fun h => by cases h.1

/-- A state with x bits refused. -/
def readyStrict (w k : Word) : State :=
  { ready w k with cfg := { defaultConfig with strictX := true } }

theorem witness_ReservedWordsRefused :
    (⟨"reserved.T3.111", 0xB800, 0xF800, 1⟩ : OpcodeRow) ∈ reservedMap ∧
    (⟨"reserved.T3.111", 0xB800, 0xF800, 1⟩ : OpcodeRow).matches 0xBFFF = true ∧
    NoInterrupt 1 (ready 0xBFFF 0) ∧ readProg (ready 0xBFFF 0) (ready 0xBFFF 0).pc = .next 0xBFFF :=
  ⟨by decide, by decide, ready_noInterrupt _ _, rfl⟩

theorem witness_XBitsBySetting :
    (∃ row ∈ instructionMap, row.matches 0x0147 = true) ∧ (0x0DFB : Word) &&& xMask 0x0DFB ≠ 0 ∧
    (∃ row ∈ instructionMap, row.matches 0x0DFB = true) ∧ (0x0147 : Word) &&& xMask 0x0147 = 0 ∧
    (readyStrict 0x0DFB 0).cfg.strictX = true ∧ NoInterrupt 1 (readyStrict 0x0DFB 0) ∧
    readProg (readyStrict 0x0DFB 0) (readyStrict 0x0DFB 0).pc = .next 0x0DFB := by
  refine ⟨by decide, by decide, by decide, by decide, rfl, noInterrupt_one.2 (by decide), rfl⟩

theorem witness_XBitsBySetting_encode :
    (∀ row ∈ reservedMap, (Instr.setult 7 .r3).mnemonic ≠ row.name) ∧ encode (.setult 7 .r3) = [0x0DFB] ∧
    xMask 0x0DFB = 0x0038 ∧ encode (.calladr 0x21 5) = 0x1DA1 :: [5] ∧ xMask 0x1DA1 = 0x003F ∧
    (∀ row ∈ reservedMap, (Instr.calladr 0x21 5).mnemonic ≠ row.name) ∧
    encode (.ret 0) = [0x0180] ∧ (Instr.ret 0).xBits = 0 := by
  decide

theorem witness_StepRunsDecodedInstruction :
    NoInterrupt 1 (ready 0x0146 0xBEEF) ∧
    interruptDue (ready 0x0146 0xBEEF) = none ∧ interruptDue (ready 0 0) = none ∧
    readProg (ready 0x0146 0xBEEF) 0 = .next 0x0146 ∧
    readProg (ready 0x0146 0xBEEF) (0 + 1) = .next 0xBEEF ∧
    decodeWords false [0x0146, 0xBEEF] = .ok (.movKr 0 .r6 0xBEEF, []) ∧
    decodeWords false [0x0000] = .ok (.movrr .r0 .r0, []) ∧ readProg (ready 0 0) 0 = .next 0 :=
  ⟨ready_noInterrupt _ _, rfl, rfl, rfl, rfl, rfl, rfl, rfl⟩

theorem witness_StepRunsDecodedInstruction_offers :
    stacked.cfg.irqModel = .noDelivery ∧ (stacked.withOffers [true]).irqOffers = true :: [] ∧
    (stacked.withOffers [true]).flags.i = false ∧ interrupted.irqOffers = true :: [] ∧
    interrupted.flags.i = true ∧ (interrupted.withOffers [false, true]).irqOffers = false :: [true] ∧
    (interrupted.withOffers []).irqOffers = [] :=
  ⟨rfl, rfl, rfl, rfl, rfl, rfl, rfl⟩

/-- The first word. -/
theorem witness_FetchOfUnloadedWordFaults :
    NoInterrupt 1 stacked ∧ stacked.pc.toNat < stacked.cfg.pmemWords ∧
    Memory.find stacked.pmem stacked.pc.toNat = none :=
  ⟨noInterrupt_one.2 (by decide), by decide, rfl⟩

/-- A program whose one loaded word, at 0xFFFF, is the first of two. -/
def lastWord : State := loadProgramWord (stacked.setPc 0xFFFF) 0xFFFF 0x0146

theorem witness_FetchOfUnloadedWordFaults_second :
    NoInterrupt 1 lastWord ∧ readProg lastWord lastWord.pc = .next 0x0146 ∧
    (decode 0x0146 0).wellFormed lastWord.cfg.strictX = true ∧ twoWords 0x0146 = true ∧
    (lastWord.pc + 1).toNat < lastWord.cfg.pmemWords ∧
    Memory.find lastWord.pmem (lastWord.pc + 1).toNat = none :=
  ⟨noInterrupt_one.2 (by decide), rfl, by decide, by decide, by decide, by decide⟩

/-- A state with offsets based on the instruction itself. -/
def selfBased (w : Word) : State := { ready w 0 with cfg := { defaultConfig with relBase := .self } }

theorem witness_EndOfRunIsFixedPoint :
    (ready 0xEFFF 0).cfg.irqModel = .noDelivery ∧ EndOfRun (ready 0xEFFF 0) ∧
    (selfBased 0xE000).cfg.irqModel = .noDelivery ∧ EndOfRun (selfBased 0xE000) ∧
    NoInterrupt 1 (ready 0xEFFF 0) ∧ NoInterrupt 1 (selfBased 0xE000) :=
  ⟨rfl, rfl, rfl, rfl, ready_noInterrupt _ _, noInterrupt_one.2 (by decide)⟩

/-- An end of run under candidate_A, with I = 1 and an environment that offers nothing here. -/
def endedA (l : List Bool) : State := ((ready 0xEFFF 0).setI true).withIrqModel (.candidateA 0x0040) |>.withOffers l

theorem witness_EndOfRunIsFixedPoint_candidateA :
    EndOfRun (endedA [false]) ∧ NoInterrupt 1 (endedA [false]) ∧ EndOfRun (endedA []) ∧
    (endedA []).irqOffers = [] ∧ NoInterrupt 1 (endedA []) :=
  ⟨rfl, noInterrupt_one.2 (by decide), rfl, rfl, noInterrupt_one.2 (by decide)⟩

/-- The premise fails where I = 1 and a request is raised, under `IRQ_MODEL = none` too (R236). -/
theorem test_noInterrupt_has_content_R236 :
    interruptDue ((interrupted.withIrqModel .noDelivery)) = none ∧
    ¬ NoInterrupt 1 (interrupted.withIrqModel .noDelivery) :=
  ⟨rfl, fun h => noInterrupt_one.1 h (by decide)⟩

/-- A launch of the default model whose program is `eint`, `jmp .`, in an environment. -/
def enabling (offers : List Bool) : State :=
  State.launch defaultConfig [(0, 0x0D80), (1, 0xEFFF)] [] offers

/-- The premise is about every boundary of the run: a request at the third one, I being 1 since the
second, breaks it for three steps and not for two (R236). -/
theorem test_noInterrupt_during_the_run_R236 :
    ¬ NoInterrupt 3 (enabling [false, false, true]) ∧ NoInterrupt 2 (enabling [false, false, true]) := by
  refine ⟨fun h => h 2 _ (by decide) rfl (by decide), ?_⟩
  intro k t hk ht
  obtain rfl | rfl : k = 0 ∨ k = 1 := by omega
  all_goals
    cases ht
    decide

/-- A request offered while I = 0 is held: it breaks the premise as soon as I is 1 (R236, R237). -/
theorem test_held_request_breaks_premise :
    ¬ NoInterrupt 2 (enabling [true]) :=
  fun h => h 1 _ (by decide) rfl (by decide)

theorem witness_EndOfRunIsFixedPoint_loops :
    CondTests .eq (flagged false false false true).flags ∧
    RelativeTarget (flagged false false false true) (BitVec.toInt (0x3FF : BitVec 10)) 0 ∧
    (stacked.setPc 0x0300).get .r1 = (stacked.setPc 0x0300).pc :=
  ⟨rfl, rfl, rfl⟩

theorem witness_DefaultModelIgnoresEnvironment :
    (ready 0x0000 0).cfg.irqModel = .noDelivery :=
  rfl

/-- A run from reset that sets I, in an environment whose one request comes after it. -/
theorem witness_DefaultModelIgnoresEnvironment_sound :
    NoInterrupt 2 ((enabling [false, false, true]).withIrqModel .noDelivery) ∧
    ∃ t, Host.Core.run Sys2Proof.core 2 ((enabling [false, false, true]).withIrqModel .noDelivery) = .next t :=
  ⟨test_noInterrupt_during_the_run_R236.2, _, rfl⟩

theorem witness_InterruptFlagIsInert :
    (Instr.addrrr .r1 .r2 .r3).mnemonic ∉ ["movSr", "movrS", "dint", "eint", "reti"] := by
  decide

theorem witness_InterruptEntrySavesAndVectors :
    interruptDue interrupted = some 0x0040 ∧
    PerformedAt interrupted (interrupted.get .sp - 2) 0x01FE ∧ WordFits interrupted 0x01FE ∧
    PerformedAt interrupted (interrupted.get .sp - 4) 0x01FC ∧ WordFits interrupted 0x01FC := by
  refine ⟨rfl, Or.inl ⟨?_, rfl⟩, ?_, Or.inl ⟨?_, rfl⟩, ?_⟩ <;> decide

/-- `interrupted` with the stack of `stacked`. -/
def handling : State := { interrupted with regs := stacked.regs }

/-- The configuration of `interrupted` with a data memory of 0x0104 bytes. -/
def smallMemory : Config :=
  { interrupted.cfg with dmemBytes := 0x0104 }

/-- A return whose second word lies outside that memory. -/
def handlingSmall : State := { (handling.set .sp 0x0102) with cfg := smallMemory }

/-- An interrupt entry at SP = 2 with that memory. -/
def interruptedSmall : State := { (interrupted.set .sp 2) with cfg := smallMemory }

theorem witness_InterruptReturnRestores :
    handling.cfg.irqModel = .candidateA 0x0040 ∧ PerformedAt handling (handling.get .sp) 0x0100 ∧
    HoldsWord handling 0x0100 0x1234 ∧ PerformedAt handling (handling.get .sp + 2) 0x0102 ∧
    HoldsWord handling 0x0102 0xFF80 :=
  ⟨rfl, Or.inl ⟨by decide, rfl⟩, ⟨0x34, 0x12, rfl, rfl, rfl⟩, Or.inl ⟨by decide, rfl⟩,
    ⟨0x80, 0xFF, rfl, rfl, rfl⟩⟩

/-- An odd SP, and an entry whose second push wraps to the top of a smaller memory. -/
theorem witness_InterruptEntrySavesAndVectors_stops :
    interruptDue (interrupted.set .sp 1) = some 0x0040 ∧ ((interrupted.set .sp 1).get .sp).toNat % 2 = 1 ∧
    (interrupted.set .sp 1).cfg.misaligned = .refuse ∧ interruptDue interruptedSmall = some 0x0040 ∧
    PerformedAt interruptedSmall (interruptedSmall.get .sp - 2) 0 ∧
    PerformedAt interruptedSmall (interruptedSmall.get .sp - 4) 0xFFFE ∧
    ¬ (WordFits interruptedSmall 0 ∧ WordFits interruptedSmall 0xFFFE) :=
  ⟨rfl, by decide, rfl, rfl, Or.inl ⟨by decide, rfl⟩, Or.inl ⟨by decide, rfl⟩, by decide⟩

theorem witness_InterruptReturnRestores_stops :
    handlingSmall.cfg.irqModel = .candidateA 0x0040 ∧
    PerformedAt handlingSmall (handlingSmall.get .sp) 0x0102 ∧ HoldsWord handlingSmall 0x0102 0xFF80 ∧
    PerformedAt handlingSmall (handlingSmall.get .sp + 2) 0x0104 ∧
    handlingSmall.cfg.dmemBytes ≤ (0x0104 : Word).toNat ∧
    PerformedAt (handling.set .sp 0x0102) ((handling.set .sp 0x0102).get .sp) 0x0102 ∧
    HoldsWord (handling.set .sp 0x0102) 0x0102 0xFF80 ∧
    PerformedAt (handling.set .sp 0x0102) ((handling.set .sp 0x0102).get .sp + 2) 0x0104 ∧
    (0x0104 : Word).toNat < (handling.set .sp 0x0102).cfg.dmemBytes ∧
    Memory.find (handling.set .sp 0x0102).dmem (0x0104 : Word).toNat = none :=
  ⟨rfl, Or.inl ⟨by decide, rfl⟩, ⟨0x80, 0xFF, rfl, rfl, rfl⟩, Or.inl ⟨by decide, rfl⟩, by decide,
    Or.inl ⟨by decide, rfl⟩, ⟨0x80, 0xFF, rfl, rfl, rfl⟩, Or.inl ⟨by decide, rfl⟩, by decide, rfl⟩

theorem witness_EntryThenReturnRestores :
    interruptDue interrupted = some 0x0040 ∧ interrupted.cfg.srarLayout.distinct = true ∧
    ∃ t, step interrupted = .next t :=
  ⟨rfl, by decide, _, rfl⟩

theorem witness_RetiRefusedWithoutInterrupts :
    stacked.cfg.irqModel = .noDelivery :=
  rfl

/-- SP = 0 wraps: the word at 0xFFFE, the highest there is. -/
theorem witness_CallsPushReturnAddress :
    PerformedAt (small 0 0 0 0) ((small 0 0 0 0).get .sp - 2) 0xFFFE ∧
    WordFits (small 0 0 0 0) 0xFFFE :=
  ⟨Or.inl ⟨by decide, rfl⟩, by decide⟩

/-- A state with word accesses at odd addresses performed one below, and SP odd. -/
def clearing (sp : Word) : State :=
  { small 0x0101 0 0 sp with cfg := { defaultConfig with misaligned := .clearBit0 } }

theorem witness_CallsPushReturnAddress_odd :
    PerformedAt (clearing 3) ((clearing 3).get .sp - 2) 0 ∧ WordFits (clearing 3) 0 :=
  ⟨Or.inr ⟨by decide, rfl, by decide⟩, by decide⟩

/-- `interrupted` at an odd SP, with word accesses at odd addresses performed one below. -/
def interruptedOdd : State :=
  { (interrupted.set .sp 0x0201) with cfg := { interrupted.cfg with misaligned := .clearBit0 } }

/-- A return from an interrupt at an odd SP. -/
def handlingOdd : State := interruptedOdd.set .sp 0x0101

theorem witness_InterruptEntrySavesAndVectors_odd :
    interruptDue interruptedOdd = some 0x0040 ∧
    PerformedAt interruptedOdd (interruptedOdd.get .sp - 2) 0x01FE ∧ WordFits interruptedOdd 0x01FE ∧
    PerformedAt interruptedOdd (interruptedOdd.get .sp - 4) 0x01FC ∧ WordFits interruptedOdd 0x01FC :=
  ⟨rfl, Or.inr ⟨by decide, rfl, by decide⟩, by decide, Or.inr ⟨by decide, rfl, by decide⟩, by decide⟩

theorem witness_InterruptReturnRestores_odd :
    handlingOdd.cfg.irqModel = .candidateA 0x0040 ∧
    PerformedAt handlingOdd (handlingOdd.get .sp) 0x0100 ∧ HoldsWord handlingOdd 0x0100 0x1234 ∧
    PerformedAt handlingOdd (handlingOdd.get .sp + 2) 0x0102 ∧ HoldsWord handlingOdd 0x0102 0xFF80 :=
  ⟨rfl, Or.inr ⟨by decide, rfl, by decide⟩, ⟨0x34, 0x12, rfl, rfl, rfl⟩,
    Or.inr ⟨by decide, rfl, by decide⟩, ⟨0x80, 0xFF, rfl, rfl, rfl⟩⟩

theorem witness_RetPopsProgramCounter_odd :
    PerformedAt (clearing 0x0101) ((clearing 0x0101).get .sp) 0x0100 ∧
    HoldsWord (clearing 0x0101) 0x0100 0x1234 :=
  ⟨Or.inr ⟨by decide, rfl, by decide⟩, ⟨0x34, 0x12, rfl, rfl, rfl⟩⟩

theorem witness_PushStoresBelow :
    Reg.r1 ≠ .sp ∧ PerformedAt (clearing 3) ((clearing 3).get .sp - 2) 0 ∧
    WordFits (clearing 3) 0 :=
  ⟨by decide, Or.inr ⟨by decide, rfl, by decide⟩, by decide⟩

theorem witness_BranchByCondition :
    CondTests .ugt (flagged false false true false).flags ∧
    ¬ CondTests .ugt (flagged false false true true).flags := by
  refine ⟨⟨rfl, rfl⟩, ?_⟩
  rintro ⟨-, h⟩
  cases h

theorem witness_RetPopsProgramCounter :
    PerformedAt stacked (stacked.get .sp) 0x0100 ∧ HoldsWord stacked 0x0100 0x1234 :=
  ⟨Or.inl ⟨by decide, rfl⟩, ⟨0x34, 0x12, rfl, rfl, rfl⟩⟩

theorem witness_CallThenRetReturns :
    (Instr.calladr 0 0x1234).mnemonic ∈ ["callrel", "calladr", "callreg"] ∧
    ∃ t, exec (.calladr 0 0x1234) stacked = .next t :=
  ⟨by decide, _, rfl⟩

theorem witness_PopLoadsAndIncrements :
    Reg.r4 ≠ .sp ∧ PerformedAt (clearing 0x0101) ((clearing 0x0101).get .sp) 0x0100 ∧
    HoldsWord (clearing 0x0101) 0x0100 0x1234 :=
  ⟨by decide, Or.inr ⟨by decide, rfl, by decide⟩, ⟨0x34, 0x12, rfl, rfl, rfl⟩⟩

/-- A state with the other order of `cmp Rs, Rd`. -/
def sourceLeft : State := { stacked with cfg := { defaultConfig with cmprrLeft := .rs } }

theorem witness_CompareRegisterFlags :
    stacked.cfg.cmprrLeft = .rd ∧ sourceLeft.cfg.cmprrLeft = .rs :=
  ⟨rfl, rfl⟩

theorem witness_ConditionsAfterCompare :
    ([Cond.eq, .ne, .uge, .ult, .lt, .ge, .ugt, .gt] : List Cond)[7]? = some .gt ∧
    ([Cond.eq, .ne, .uge, .ult, .lt, .ge, .ugt, .gt] : List Cond)[0]? = some .eq ∧
    (∃ t, exec (.cmpkr 0x80 .r1) stacked = .next t) ∧ (0xFF80 : Word).toInt = (0x80 : BitVec 8).toInt ∧
    (∃ t, exec (.cmprr .r1 .r2) stacked = .next t) ∧
    (∃ t, exec (.cmprr .r1 .r2) sourceLeft = .next t) :=
  ⟨rfl, rfl, ⟨_, rfl⟩, by decide, ⟨_, rfl⟩, ⟨_, rfl⟩⟩

/-- The registers of the program P4. -/
theorem witness_MultiWordArithmetic :
    Reg.r4 ≠ .r1 ∧ Reg.r4 ≠ .r3 ∧ Reg.r5 ≠ .r4 ∧
    ∃ t u, exec (.addrrr .r0 .r2 .r4) stacked = .next t ∧ exec (.cmprr .r1 .r2) t = .next u ∧
      ∃ v, exec (.adcrrr .r1 .r3 .r5) u = .next v :=
  ⟨by decide, by decide, by decide, _, _, rfl, rfl, _, rfl⟩

/-- Results over the first operands, SP among them. -/
theorem witness_MultiWordArithmetic_sub :
    Reg.r0 ≠ .sp ∧ Reg.r0 ≠ .r1 ∧ Reg.sp ≠ .r0 ∧
    ∃ t u, exec (.subrrr .r0 .r2 .r0) stacked = .next t ∧ exec (.cmprr .r1 .r2) t = .next u ∧
      ∃ v, exec (.subcrrr .sp .r1 .sp) u = .next v :=
  ⟨by decide, by decide, by decide, _, _, rfl, rfl, _, rfl⟩

theorem witness_SelectByCondition :
    CondTests .lt (flagged false true false false).flags ∧
    ¬ CondTests .lt (flagged true true false false).flags := by
  refine ⟨fun h => ?_, fun h => h rfl⟩
  cases h

theorem witness_SetByCondition :
    CondTests .ge (flagged true true false false).flags ∧
    ¬ CondTests .ge (flagged false true false false).flags := by
  refine ⟨rfl, fun h => ?_⟩
  cases h

theorem witness_LoadProgramWord :
    readProg lastWord ((lastWord.set .r1 0xFFFF).get .r1) = .next 0x0146 ∧
    (stacked.get .r1).toNat < stacked.cfg.pmemWords ∧
    Memory.find stacked.pmem (stacked.get .r1).toNat = none :=
  ⟨rfl, by decide, rfl⟩

theorem witness_MovSrarToRegister :
    stacked.cfg.srarLayout.distinct = true ∧ stacked.cfg.srarLayout = ⟨6, 5, 4, 3, 2, 1, 0⟩ := by
  decide

theorem witness_SrarRoundTrip :
    stacked.cfg.srarLayout.distinct = true ∧ ∃ t, exec (.movSr 0 .sp) stacked = .next t :=
  ⟨by decide, _, rfl⟩

/-- The ends of the range of K, by the three mappings (R92). -/
theorem witness_EffectiveAddresses :
    t4Offset .signfill 48 = -16 ∧ t4Offset .signfill 47 = 47 ∧ t4Offset .excess16 0 = -16 ∧
    t4Offset .excess16 63 = 47 ∧ t4Offset .signedPlus16 32 = -16 ∧ t4Offset .signedPlus16 31 = 47 := by
  decide

theorem witness_WordLoads :
    HoldsWord (small 0x00F0 0x0010 0 0) 0x0100 0x1234 ∧
    PerformedAt (small 0x00F0 0x0010 0 0) (eaImm (small 0x00F0 0x0010 0 0) .r1 16) 0x0100 ∧
    PerformedAt (small 0x00F0 0x0010 0 0) (eaReg (small 0x00F0 0x0010 0 0) .r1 .r2) 0x0100 ∧
    PerformedAt (small 0x00F0 0x0010 0 0) 0x0100 0x0100 ∧
    PerformedAt (small 0x00F0 0x0010 0 0) (eaWord (small 0x00F0 0x0010 0 0) .r1 0x0010) 0x0100 := by
  refine ⟨⟨0x34, 0x12, rfl, rfl, rfl⟩, Or.inl ⟨?_, rfl⟩, Or.inl ⟨?_, rfl⟩, Or.inl ⟨?_, rfl⟩,
    Or.inl ⟨?_, rfl⟩⟩ <;> decide

theorem witness_WordLoads_odd :
    HoldsWord (clearing 0) 0x0100 0x1234 ∧
    PerformedAt (clearing 0) (eaImm (clearing 0) .r1 0) 0x0100 :=
  ⟨⟨0x34, 0x12, rfl, rfl, rfl⟩, Or.inr ⟨by decide, rfl, by decide⟩⟩

theorem witness_ByteLoads :
    (0x0080 : Word).toNat = (0x80 : Byte).toNat ∧ (0xFF80 : Word).toInt = (0x80 : Byte).toInt ∧
    readByte (small 0x00F0 0x0012 0 0) (eaImm (small 0x00F0 0x0012 0 0) .r1 18) = .next 0x80 ∧
    readByte (small 0x00F0 0x0012 0 0) (eaReg (small 0x00F0 0x0012 0 0) .r1 .r2) = .next 0x80 ∧
    readByte (small 0x00F0 0x0012 0 0) 0x0102 = .next 0x80 ∧
    readByte (small 0x00F0 0x0012 0 0) (eaWord (small 0x00F0 0x0012 0 0) .r1 0x0012) = .next 0x80 :=
  ⟨by decide, by decide, rfl, rfl, rfl, rfl⟩

theorem witness_WordStores :
    WordFits (small 0xFFFE 0 0 0) 0xFFFE ∧
    PerformedAt (small 0xFFFE 0 0 0) (eaImm (small 0xFFFE 0 0 0) .r1 0) 0xFFFE ∧
    PerformedAt (small 0xFFFE 0 0 0) (eaReg (small 0xFFFE 0 0 0) .r1 .r2) 0xFFFE ∧
    PerformedAt (small 0xFFFE 0 0 0) 0xFFFE 0xFFFE ∧
    PerformedAt (small 0xFFFE 0 0 0) (eaWord (small 0xFFFE 0 0 0) .r1 0) 0xFFFE := by
  refine ⟨by decide, Or.inl ⟨?_, rfl⟩, Or.inl ⟨?_, rfl⟩, Or.inl ⟨?_, rfl⟩, Or.inl ⟨?_, rfl⟩⟩ <;>
    decide

theorem witness_ByteStores :
    (eaImm (small 0xFFFF 0 0 0) .r1 0).toNat < 65536 ∧ (eaReg (small 0xFFFF 0 0 0) .r1 .r2).toNat < 65536 ∧
    (0xFFFF : Word).toNat < (small 0xFFFF 0 0 0).cfg.dmemBytes ∧
    (eaWord (small 0xFFFF 0 0 0) .r1 0).toNat < (small 0xFFFF 0 0 0).cfg.dmemBytes := by
  decide

theorem witness_MisalignedWordAccess :
    wordLoadAt (.mov16mr 1 .r1 .r2) (small 0xFFFE 0 0 0) = some 0xFFFF ∧
    wordStoreAt (.push 0 .r1) (small 0 0 0 3) = some 1 ∧ (0xFFFF : Word).toNat % 2 = 1 ∧
    (small 0xFFFE 0 0 0).cfg.misaligned = .refuse ∧ (clearing 3).cfg.misaligned = .clearBit0 ∧
    wordLoadAt (.mov8zar 0 .r2 0x0101) stacked = none ∧
    wordStoreAt (.mov8zar 0 .r2 0x0101) stacked = none :=
  ⟨rfl, rfl, by decide, rfl, rfl, rfl, rfl⟩

/-- A state with a data memory of 0x0103 bytes and a program memory of one word. -/
def cramped (w : Word) : State :=
  { ready w 0 with
    cfg := { defaultConfig with
      dmemBytes := 0x0103
      pmemWords := 1 } }

/-- The first byte outside, the word with its second byte outside, and the last word inside. -/
theorem witness_OutsideMemoryRefused :
    byteLoadAt (.mov8zar 0 .r2 0x0103) (cramped 0) = some 0x0103 ∧
    (cramped 0).cfg.dmemBytes ≤ (0x0103 : Word).toNat ∧
    wordLoadAt (.mov16ar 0 .r2 0x0102) (cramped 0) = some 0x0102 ∧
    PerformedAt (cramped 0) 0x0102 0x0102 ∧ ¬ WordFits (cramped 0) 0x0102 ∧
    Memory.find (cramped 0).dmem (0x0102 : Word).toNat ≠ none ∧
    wordStoreAt (.mov16ra 0 .r2 0x0102) (cramped 0) = some 0x0102 ∧
    WordFits (cramped 0) 0x0100 ∧ (cramped 0).cfg.pmemWords ≤ ((cramped 0).get .r1).toNat :=
  ⟨rfl, by decide, rfl, Or.inl ⟨by decide, rfl⟩, by decide, by decide, rfl, by decide, by decide⟩

theorem witness_OutsideMemoryRefused_fetch :
    NoInterrupt 1 ((cramped 0).setPc 1) ∧ (cramped 0).cfg.pmemWords ≤ ((cramped 0).setPc 1).pc.toNat ∧
    NoInterrupt 1 (cramped 0x0146) ∧ readProg (cramped 0x0146) (cramped 0x0146).pc = .next 0x0146 ∧
    (decode 0x0146 0).wellFormed (cramped 0x0146).cfg.strictX = true ∧ twoWords 0x0146 = true ∧
    (cramped 0x0146).cfg.pmemWords ≤ ((cramped 0x0146).pc + 1).toNat ∧
    stacked.cfg.dmemBytes = 65536 ∧ stacked.cfg.pmemWords = 65536 :=
  ⟨noInterrupt_one.2 (by decide), by decide, noInterrupt_one.2 (by decide), rfl, by decide, by decide, by decide, rfl, rfl⟩

theorem witness_UnwrittenDataFaults :
    byteLoadAt (.mov8zar 0 .r2 0x0104) stacked = some 0x0104 ∧
    (0x0104 : Word).toNat < stacked.cfg.dmemBytes ∧
    Memory.find stacked.dmem (0x0104 : Word).toNat = none ∧
    wordLoadAt (.ret 0) (small 0 0 0 0) = some 0 ∧ PerformedAt (small 0 0 0 0) 0 0 ∧
    WordFits (small 0 0 0 0) 0 ∧ Memory.find (small 0 0 0 0).dmem (0 : Word).toNat = none ∧
    byteStoreAt (.mov8ra 0 .r2 0x0104) stacked = some 0x0104 ∧
    wordStoreAt (.callrel 0) stacked = some 0x00FE :=
  ⟨rfl, by decide, rfl, rfl, Or.inl ⟨by decide, rfl⟩, by decide, rfl, rfl, rfl⟩

/-- `cramped` without the byte at 0x0102: the last byte there is holds no value. -/
def crampedEmpty : State := { cramped 0 with dmem := [(0x0100, 0x34), (0x0101, 0x12)] }

/-- The lower byte holds no value and the upper one is outside: X5 comes before X7 (R233). -/
theorem witness_UnwrittenDataFaults_last :
    wordLoadAt (.mov16ar 0 .r2 0x0102) crampedEmpty = some 0x0102 ∧ PerformedAt crampedEmpty 0x0102 0x0102 ∧
    (0x0102 : Word).toNat < crampedEmpty.cfg.dmemBytes ∧ ¬ WordFits crampedEmpty 0x0102 ∧
    Memory.find crampedEmpty.dmem (0x0102 : Word).toNat = none ∧
    (match exec (.mov16ar 0 .r2 0x0102) crampedEmpty with
     | .fault .dataByteNoValue => true
     | _ => false) = true :=
  ⟨rfl, Or.inl ⟨by decide, rfl⟩, by decide, by decide, rfl, rfl⟩

theorem witness_MixedWidths :
    (0x0100 : Word).toNat % 2 = 0 ∧ (∃ t, writeWord stacked 0x0100 0x1234 = .next t) ∧
    (∃ t u, writeByte stacked 0x0100 0x34 = .next t ∧ writeByte t (0x0100 + 1) 0x12 = .next u) ∧
    stacked.cfg.byteOrder = .little ∧ (bigEndian stacked).cfg.byteOrder = .big :=
  ⟨by decide, ⟨_, rfl⟩, ⟨_, _, rfl, rfl⟩, rfl, rfl⟩

/-- An instruction in none of the four lists, and one in the first only. -/
theorem witness_FlagWriters :
    (∃ t, exec (.movKr 0 .r1 5) stacked = .next t) ∧ (∃ t, exec (.cmprr .r1 .r2) stacked = .next t) :=
  ⟨⟨_, rfl⟩, ⟨_, rfl⟩⟩

theorem witness_RegisterWriters :
    (∃ t, exec (.push 0 .r1) stacked = .next t) ∧ destOf (.push 0 .r1) ≠ some .r1 ∧ Reg.r1 ≠ .sp ∧
    (∃ t, exec (.cmprr .r1 .r2) stacked = .next t) ∧ destOf (.cmprr .r1 .r2) ≠ some .sp ∧
    (Instr.cmprr .r1 .r2).mnemonic ∉ ["push", "pop", "callrel", "calladr", "callreg", "ret", "reti"] :=
  ⟨⟨_, rfl⟩, by decide, by decide, ⟨_, rfl⟩, by decide, by decide⟩

theorem witness_DataMemoryWriters :
    (∃ t, exec (.push 0 .r1) stacked = .next t) ∧ byteStoreAt (.push 0 .r1) stacked ≠ some 0x0100 ∧
    wordStoreAt (.push 0 .r1) stacked = some 0x00FE ∧ PerformedAt stacked 0x00FE 0x00FE ∧
    (0x0100 : Word) ≠ 0x00FE ∧ (0x0100 : Word) ≠ 0x00FE + 1 :=
  ⟨⟨_, rfl⟩, by decide, rfl, Or.inl ⟨by decide, rfl⟩, by decide, by decide⟩

theorem witness_PcAdvances :
    (∃ t, exec (.movKr 0 .r1 5) (stacked.setPc 0xFFFF) = .next t) ∧
    (Instr.movKr 0 .r1 5).mnemonic ∉ ["jmprel", "callrel", "breq", "brne", "bruge", "brult", "brlt",
      "brge", "brugt", "brgt", "ret", "reti", "calladr", "jmpreg", "callreg"] :=
  ⟨⟨_, rfl⟩, by decide⟩

theorem witness_ResetState :
    (0x0200 : Word).toNat < defaultConfig.pmemWords ∧ (0x0100 : Word).toNat < defaultConfig.dmemBytes ∧
    Memory.wf [(0x0200, (0x83FA : Word))] = true ∧ Memory.wf [(0x0100, (0x34 : Byte))] = true := by
  decide

theorem witness_ProgramMemoryConstant :
    ∃ t, Host.Core.run Sys2Proof.core 2 (ready 0x83FA 0x0000) = .next t :=
  ⟨_, rfl⟩

theorem witness_MemoryFormInvariant :
    MemoryForm (ready 0x0901 0) ∧ ∃ t, step (ready 0x0901 0) = .next t :=
  ⟨⟨by decide, by decide⟩, _, rfl⟩

end Sys2Proof.Tests
end

section
/-! SUPPORT. Everything an instruction that completes can do to the state, said once, in the words of
the laws of the shared operations. The rules of the whole instruction set follow by cases on it. -/

namespace Sys2Proof.Machine

/-! ### The names of the instructions that share a meaning -/

/-- The jumps and the conditional branches (R110, R112, R180). -/
def jumpNames : List String :=
  ["jmprel", "breq", "brne", "bruge", "brult", "brlt", "brge", "brugt", "brgt", "jmpreg"]

/-- The calls (R111, R171, R181). -/
def callNames : List String := ["callrel", "calladr", "callreg"]

/-- The compares (10_state.md R27). -/
def compareNames : List String := ["cmpkr", "cmprr"]

/-- The additions and subtractions that update SR and AR (10_state.md R27, R29). -/
def addSubNames : List String := ["addkr", "subkr", "addrrr", "adcrrr", "subrrr", "subcrrr"]

/-- The logical instructions (10_state.md R28). -/
def logicNames : List String :=
  ["andkr", "orkr", "xorkr", "andrrr", "orrrr", "xorrrr", "neg", "not"]

/-- An instruction's name is in a list where the list's own test says so. -/
theorem mnemonic_mem {i : Instr} {l : List String} (h : l.contains i.mnemonic = true) :
    i.mnemonic ∈ l :=
  List.contains_iff_mem.1 h

/-- A name of a list is not outside a larger one. -/
theorem name_excluded {name : String} {l l' : List String} {P : Prop} (hm : name ∈ l)
    (hs : ∀ n ∈ l, n ∈ l') (hn : name ∉ l') : P :=
  absurd (hs name hm) hn

/-! ### The state after the logical SR update -/

section
variable (s : State) (r : Word)

@[simp] theorem logicFlags_cfg : (logicFlags s r).cfg = s.cfg := by
  unfold logicFlags
  cases s.cfg.logicCV <;> rfl

@[simp] theorem logicFlags_regs : (logicFlags s r).regs = s.regs := by
  unfold logicFlags
  cases s.cfg.logicCV <;> rfl

@[simp] theorem logicFlags_get (q : Reg) : (logicFlags s r).get q = s.get q :=
  congrArg (Regs.get · q) (logicFlags_regs s r)

@[simp] theorem logicFlags_pc : (logicFlags s r).pc = s.pc := by
  unfold logicFlags
  cases s.cfg.logicCV <;> rfl

@[simp] theorem logicFlags_dmem : (logicFlags s r).dmem = s.dmem := by
  unfold logicFlags
  cases s.cfg.logicCV <;> rfl

@[simp] theorem logicFlags_pmem : (logicFlags s r).pmem = s.pmem := by
  unfold logicFlags
  cases s.cfg.logicCV <;> rfl

@[simp] theorem logicFlags_irqOffers : (logicFlags s r).irqOffers = s.irqOffers := by
  unfold logicFlags
  cases s.cfg.logicCV <;> rfl

/-- The logical SR update leaves I, AC and AZ (10_state.md R28). -/
theorem logicFlags_keepsIAndAR : KeepsIAndAR s (logicFlags s r) := by
  unfold logicFlags
  cases s.cfg.logicCV <;> exact ⟨rfl, rfl, rfl⟩

end

/-! ### What an instruction does -/

/-- What an instruction that completes makes of the state, by what its kind may write: the registers,
flags and bytes it names, and the length it goes on by. -/
inductive ExecEffect (i : Instr) (s : State) : State → Prop
  | jumps (target : Word) (hm : i.mnemonic ∈ jumpNames) : ExecEffect i s (s.setPc target)
  | writesReg (rd : Reg) (v len : Word) (hd : destOf i = some rd) (hl : len.toNat = i.length) :
      ExecEffect i s ((s.set rd v).advance len)
  | compares (o : AddOut) (len : Word) (hm : i.mnemonic ∈ compareNames)
      (hl : len.toNat = i.length) :
      ExecEffect i s ((s.setFlags (s.flags.withArithSR o)).advance len)
  | addsOrSubtracts (rd : Reg) (o : AddOut) (f : Flags) (len : Word) (hd : destOf i = some rd)
      (hm : i.mnemonic ∈ addSubNames) (hi : f.i = s.flags.i) (hl : len.toNat = i.length) :
      ExecEffect i s (((s.set rd o.result).setFlags f).advance len)
  | logical (rd : Reg) (r len : Word) (hd : destOf i = some rd) (hm : i.mnemonic ∈ logicNames)
      (hl : len.toNat = i.length) :
      ExecEffect i s (((logicFlags s r).set rd r).advance len)
  | storesWord (a p v len : Word) (ha : wordStoreAt i s = some a) (hp : PerformedAt s a p)
      (hl : len.toNat = i.length) :
      ExecEffect i s ((s.putWord p v).advance len)
  | storesByte (a : Word) (b : Byte) (len : Word) (ha : byteStoreAt i s = some a)
      (hl : len.toNat = i.length) :
      ExecEffect i s ((s.putByte a b).advance len)
  | pushes (p v len : Word) (hm : i.mnemonic ∈ ["push"])
      (ha : wordStoreAt i s = some (s.get .sp - 2)) (hp : PerformedAt s (s.get .sp - 2) p)
      (hl : len.toNat = i.length) :
      ExecEffect i s (((s.putWord p v).set .sp (s.get .sp - 2)).advance len)
  | calls (p v target : Word) (hm : i.mnemonic ∈ callNames)
      (ha : wordStoreAt i s = some (s.get .sp - 2)) (hp : PerformedAt s (s.get .sp - 2) p) :
      ExecEffect i s (((s.putWord p v).set .sp (s.get .sp - 2)).setPc target)
  | pops (rd : Reg) (v len : Word) (hm : i.mnemonic ∈ ["pop"]) (hd : destOf i = some rd)
      (hl : len.toNat = i.length) :
      ExecEffect i s (((s.set .sp (s.get .sp + 2)).set rd v).advance len)
  | returns (target : Word) (hm : i.mnemonic ∈ ["ret"]) :
      ExecEffect i s ((s.set .sp (s.get .sp + 2)).setPc target)
  | returnsFromInterrupt (w target : Word) (hm : i.mnemonic ∈ ["reti"]) :
      ExecEffect i s ((((s.set .sp (s.get .sp + 2)).setFlags
        (unpackSrar s.cfg.srarLayout w)).set .sp (s.get .sp + 2 + 2)).setPc target)
  | writesI (b : Bool) (len : Word) (hm : i.mnemonic ∈ ["dint", "eint"])
      (hl : len.toNat = i.length) : ExecEffect i s ((s.setI b).advance len)
  | writesFlags (w len : Word) (hm : i.mnemonic ∈ ["movrS"]) (hl : len.toNat = i.length) :
      ExecEffect i s ((s.setFlags (unpackSrar s.cfg.srarLayout w)).advance len)

namespace ExecEffect

variable {i : Instr} {s t : State}

/-! ### The effect of each shared operation -/

theorem of_writeReg {rd : Reg} {v len : Word} (hd : destOf i = some rd)
    (hl : len.toNat = i.length) (h : writeReg s rd v len = .next t) : ExecEffect i s t := by
  cases h
  exact .writesReg rd v len hd hl

/-- A load: what is read ends in the register. -/
theorem of_load {α : Type} {r : Res α} {v : α → Word} {rd : Reg} {len : Word}
    (hd : destOf i = some rd) (hl : len.toNat = i.length)
    (h : andThen r (fun x => writeReg s rd (v x) len) = .next t) : ExecEffect i s t := by
  obtain ⟨x, -, hx⟩ := andThen_eq_next.1 h
  exact of_writeReg hd hl hx

theorem of_branchOp {cc : Cond} {a : BitVec 10} (hm : i.mnemonic ∈ jumpNames)
    (h : branchOp cc a s = .next t) : ExecEffect i s t := by
  unfold branchOp at h
  split at h <;> cases h
  · exact .jumps _ hm
  · exact .jumps (s.pc + 1) hm

theorem of_compareOp {left right : Word} (hm : i.mnemonic ∈ compareNames)
    (hl : (1 : Word).toNat = i.length) (h : compareOp s left right = .next t) :
    ExecEffect i s t := by
  cases h
  exact .compares _ 1 hm hl

theorem of_arithOp {rd : Reg} {o : AddOut} (hd : destOf i = some rd)
    (hm : i.mnemonic ∈ addSubNames) (hl : (1 : Word).toNat = i.length)
    (h : arithOp s rd o = .next t) : ExecEffect i s t := by
  cases h
  exact .addsOrSubtracts rd o _ 1 hd hm rfl hl

theorem of_arithChainedOp {rd : Reg} {o : AddOut} (hd : destOf i = some rd)
    (hm : i.mnemonic ∈ addSubNames) (hl : (1 : Word).toNat = i.length)
    (h : arithChainedOp s rd o = .next t) : ExecEffect i s t := by
  cases h
  exact .addsOrSubtracts rd o _ 1 hd hm rfl hl

theorem of_logicOp {rd : Reg} {r : Word} (hd : destOf i = some rd)
    (hm : i.mnemonic ∈ logicNames) (hl : (1 : Word).toNat = i.length)
    (h : logicOp s rd r = .next t) : ExecEffect i s t := by
  cases h
  exact .logical rd r 1 hd hm hl

theorem of_storeWord {a : Word} {rd : Reg} {len : Word} (ha : wordStoreAt i s = some a)
    (hl : len.toNat = i.length) (h : storeWord s a rd len = .next t) : ExecEffect i s t := by
  obtain ⟨u, hu, ht⟩ := andThen_eq_next.1 h
  obtain ⟨p, hp, -, rfl⟩ := writeWord_eq_next.1 hu
  cases ht
  exact .storesWord a p _ len ha hp hl

theorem of_storeByte {a : Word} {rd : Reg} {len : Word} (ha : byteStoreAt i s = some a)
    (hl : len.toNat = i.length) (h : storeByte s a rd len = .next t) : ExecEffect i s t := by
  obtain ⟨u, hu, ht⟩ := andThen_eq_next.1 h
  obtain ⟨-, rfl⟩ := writeByte_eq_next.1 hu
  cases ht
  exact .storesByte a _ len ha hl

theorem of_callOp {target len : Word} (hm : i.mnemonic ∈ callNames)
    (ha : wordStoreAt i s = some (s.get .sp - 2)) (h : callOp s target len = .next t) :
    ExecEffect i s t := by
  obtain ⟨u, hu, ht⟩ := andThen_eq_next.1 h
  obtain ⟨p, hp, -, rfl⟩ := pushWord_eq_next.1 hu
  cases ht
  exact .calls p _ target hm ha hp

theorem of_push {x : BitVec 3} {rd : Reg} (h : execPush rd s = .next t) :
    ExecEffect (.push x rd) s t := by
  unfold execPush at h
  split at h
  · cases h
  · rename_i hsp
    obtain ⟨u, hu, ht⟩ := andThen_eq_next.1 h
    obtain ⟨p, hp, -, rfl⟩ := pushWord_eq_next.1 hu
    cases ht
    exact .pushes p _ 1 (mnemonic_mem rfl) (if_neg hsp) hp rfl

theorem of_pop {x : BitVec 3} {rd : Reg} (h : execPop rd s = .next t) :
    ExecEffect (.pop x rd) s t := by
  unfold execPop at h
  split at h
  · cases h
  · obtain ⟨⟨v, u⟩, hu, ht⟩ := andThen_eq_next.1 h
    obtain ⟨-, -, -, rfl⟩ := popWord_eq_next.1 hu
    cases ht
    exact .pops rd v 1 (mnemonic_mem rfl) rfl rfl

theorem of_ret {x : BitVec 6} (h : execRet s = .next t) : ExecEffect (.ret x) s t := by
  obtain ⟨⟨a, u⟩, hu, ht⟩ := andThen_eq_next.1 h
  obtain ⟨-, -, -, rfl⟩ := popWord_eq_next.1 hu
  cases ht
  exact .returns a (mnemonic_mem rfl)

theorem of_reti {x : BitVec 6} (h : execReti s = .next t) : ExecEffect (.reti x) s t := by
  unfold execReti at h
  split at h
  · cases h
  · obtain ⟨w, s1, a, s2, h1, h2, rfl⟩ := interruptReturn_eq_next.1 h
    obtain ⟨-, -, -, rfl⟩ := popWord_eq_next.1 h1
    obtain ⟨-, -, -, rfl⟩ := popWord_eq_next.1 h2
    exact .returnsFromInterrupt w a (mnemonic_mem rfl)

theorem of_cmprr {rs rd : Reg} (h : execCmprr rs rd s = .next t) :
    ExecEffect (.cmprr rs rd) s t := by
  unfold execCmprr at h
  split at h <;> exact of_compareOp (mnemonic_mem rfl) rfl h

/-- A reserved encoding completes in no state (30_encoding.md R100). -/
theorem of_reserved (h : refuseReserved = .next t) : ExecEffect i s t := by
  cases h

end ExecEffect

/-- An instruction that completes has the effect of its kind. -/
theorem exec_effect {i : Instr} {s t : State} (h : exec i s = .next t) : ExecEffect i s t := by
  cases i with
  | jmprel | jmpreg =>
    cases h
    exact .jumps _ (mnemonic_mem rfl)
  | breq | brne | bruge | brult | brlt | brge | brugt | brgt =>
    exact .of_branchOp (mnemonic_mem rfl) h
  | callrel | calladr | callreg => exact .of_callOp (mnemonic_mem rfl) rfl h
  | cmpkr => exact .of_compareOp (mnemonic_mem rfl) rfl h
  | cmprr => exact .of_cmprr h
  | addkr | subkr | addrrr | subrrr => exact .of_arithOp rfl (mnemonic_mem rfl) rfl h
  | adcrrr | subcrrr => exact .of_arithChainedOp rfl (mnemonic_mem rfl) rfl h
  | andkr | orkr | xorkr | andrrr | orrrr | xorrrr | neg | notrr =>
    exact .of_logicOp rfl (mnemonic_mem rfl) rfl h
  | movkr | movKr | movMr | movrr | zext | sext | bswap | sextw | lsr | lsl | asr | movSr
  | seleq | selne | seluge | selult | sellt | selge | selugt | selgt
  | seteq | setne | setuge | setult | setlt | setge | setugt | setgt =>
    exact .of_writeReg rfl rfl h
  | mov16mr | movs8mr | mov16nr | mov8znr | mov8snr | mov16ar | mov8zar | mov8sar
  | mov16Mr | mov8zMr | mov8sMr | mov16pr => exact .of_load rfl rfl h
  | mov16rm | mov16rn | mov16ra | mov16rM => exact .of_storeWord rfl rfl h
  | mov8rm | mov8rn | mov8ra | mov8rM => exact .of_storeByte rfl rfl h
  | push => exact .of_push h
  | pop => exact .of_pop h
  | ret => exact .of_ret h
  | reti => exact .of_reti h
  | dint | eint =>
    cases h
    exact .writesI _ 1 (mnemonic_mem rfl) rfl
  | movrS =>
    cases h
    exact .writesFlags _ 1 (mnemonic_mem rfl) rfl
  | reservedT3_111 | reservedT5_0111 | reservedT5_1000 | reservedT5_1110 | reservedT5_1111
  | reservedT8_100 | reservedT8_101 | reservedT8_110
  | reservedT9_100_0 | reservedT9_101_0 | reservedT9_110_1 | reservedT9_111_1
  | reservedT10_110_00 | reservedT10_011_01 | reservedT10_100_01 | reservedT10_111_01
  | reservedT10_110_10 | reservedT10_111_10 | reservedT10_xxx_11 => exact .of_reserved h

end Sys2Proof.Machine
end

section
/-! SUPPORT. The rules of 10_state.md for the whole instruction set: what an instruction can write of
the memories, the registers, the flags and `pc`, each by cases on ExecEffect. -/

namespace Sys2Proof.Machine

/-! ### The memories (R32, R33) -/

theorem ExecEffect.pmem_eq {i : Instr} {s t : State} (h : ExecEffect i s t) : t.pmem = s.pmem := by
  cases h with
  | logical => simp
  | _ => rfl

theorem ExecEffect.dmem_wf {i : Instr} {s t : State} (h : ExecEffect i s t)
    (hw : Memory.wf s.dmem = true) : Memory.wf t.dmem = true := by
  cases h with
  | logical => simpa using hw
  | storesWord _ p v | pushes p v | calls p v => exact putWord_wf s p v hw
  | storesByte a b => exact Memory.wf_put b hw a.isLt
  | _ => exact hw

theorem exec_memoryForm {i : Instr} {s t : State} (hf : MemoryForm s) (h : exec i s = .next t) :
    MemoryForm t := by
  obtain ⟨hd, hp⟩ := hf
  have e := exec_effect h
  exact ⟨e.dmem_wf hd, e.pmem_eq ▸ hp⟩

theorem pushWord_memoryForm {s t : State} {v : Word} (hf : MemoryForm s)
    (h : pushWord s v = .next t) : MemoryForm t := by
  obtain ⟨hd, hp⟩ := hf
  obtain ⟨p, -, -, rfl⟩ := pushWord_eq_next.1 h
  exact ⟨putWord_wf s p v hd, hp⟩

theorem interruptEntry_memoryForm {s t : State} {vector : Word} (hf : MemoryForm s)
    (h : interruptEntry vector s = .next t) : MemoryForm t := by
  obtain ⟨s1, s2, h1, h2, rfl⟩ := interruptEntry_eq_next.1 h
  have hf2 : MemoryForm s2 := pushWord_memoryForm (pushWord_memoryForm hf h1) h2
  exact hf2

theorem passOffer_memoryForm {s : State} (hf : MemoryForm s) : MemoryForm (passOffer s) := by
  obtain ⟨l, e⟩ := passOffer_eq s
  rw [e]
  exact hf

theorem step_memoryForm {s t : State} (hf : MemoryForm s) (h : step s = .next t) :
    MemoryForm t := by
  have hp := passOffer_memoryForm hf
  obtain ⟨vector, -, he⟩ | ⟨-, i, -, hx⟩ := step_eq_next.1 h
  · exact interruptEntry_memoryForm hp he
  · exact exec_memoryForm hp hx

/-! ### The registers (R23) -/

theorem ExecEffect.get_eq {i : Instr} {s t : State} (h : ExecEffect i s t) {r : Reg}
    (hd : destOf i ≠ some r)
    (hsp : r = .sp →
      i.mnemonic ∉ ["push", "pop", "callrel", "calladr", "callreg", "ret", "reti"]) :
    t.get r = s.get r := by
  have ne_dest {rd : Reg} (h : destOf i = some rd) : r ≠ rd := by
    rintro rfl
    exact hd h
  have ne_sp {l : List String} (hm : i.mnemonic ∈ l)
      (hs : ∀ n ∈ l, n ∈ ["push", "pop", "callrel", "calladr", "callreg", "ret", "reti"]) :
      r ≠ .sp := fun e => name_excluded hm hs (hsp e)
  cases h with
  | jumps | compares | storesWord | storesByte | writesI | writesFlags => rfl
  | writesReg rd v _ hrd => exact State.get_set_ne s v (ne_dest hrd)
  | addsOrSubtracts rd o _ _ hrd => exact State.get_set_ne s o.result (ne_dest hrd)
  | logical rd v _ hrd =>
    rw [State.advance_get, State.get_set_ne _ v (ne_dest hrd), logicFlags_get]
  | pushes p v _ hm => exact State.get_set_ne (s.putWord p v) _ (ne_sp hm (by decide))
  | calls p v _ hm => exact State.get_set_ne (s.putWord p v) _ (ne_sp hm (by decide))
  | pops rd v _ hm hrd =>
    rw [State.advance_get, State.get_set_ne _ v (ne_dest hrd),
      State.get_set_ne s _ (ne_sp hm (by decide))]
  | returns _ hm => exact State.get_set_ne s _ (ne_sp hm (by decide))
  | returnsFromInterrupt _ _ hm =>
    have hr := ne_sp hm (by decide)
    rw [State.setPc_get, State.get_set_ne _ _ hr, State.setFlags_get, State.get_set_ne s _ hr]

/-! ### The program counter (R24) -/

/-- `pc` moved on by a length, as a number. -/
theorem toNat_add_length {pc len : Word} {n : Nat} (h : len.toNat = n) :
    ((pc + len).toNat : Int) = ((pc.toNat : Int) + n) % 65536 := by
  rw [BitVec.toNat_add]
  omega

theorem ExecEffect.pc_advances {i : Instr} {s t : State} (h : ExecEffect i s t)
    (hn : i.mnemonic ∉ ["jmprel", "callrel", "breq", "brne", "bruge", "brult", "brlt", "brge",
      "brugt", "brgt", "ret", "reti", "calladr", "jmpreg", "callreg"]) :
    (t.pc.toNat : Int) = ((s.pc.toNat : Int) + i.length) % 65536 := by
  cases h with
  | jumps _ hm | returns _ hm => exact name_excluded hm (by decide) hn
  | calls _ _ _ hm | returnsFromInterrupt _ _ hm => exact name_excluded hm (by decide) hn
  | logical _ _ _ _ _ hl => simpa using toNat_add_length hl
  | _ => exact toNat_add_length ‹_›

/-! ### The flags (R28, R34, R35) -/

/-- V, S, C and Z are as before but for the instructions that can write them (R34). -/
theorem ExecEffect.sr_eq {i : Instr} {s t : State} (h : ExecEffect i s t)
    (hn : i.mnemonic ∉ ["cmpkr", "cmprr", "addkr", "subkr", "addrrr", "adcrrr", "subrrr",
      "subcrrr", "andkr", "orkr", "xorkr", "andrrr", "orrrr", "xorrrr", "neg", "not", "movrS",
      "reti"]) :
    t.flags.v = s.flags.v ∧ t.flags.s = s.flags.s ∧ t.flags.c = s.flags.c ∧
      t.flags.z = s.flags.z := by
  cases h with
  | compares _ _ hm | writesFlags _ _ hm | returnsFromInterrupt _ _ hm =>
    exact name_excluded hm (by decide) hn
  | addsOrSubtracts _ _ _ _ _ hm | logical _ _ _ _ hm => exact name_excluded hm (by decide) hn
  | _ => exact ⟨rfl, rfl, rfl, rfl⟩

/-- AC and AZ are as before but for the instructions that can write them (R34). -/
theorem ExecEffect.ar_eq {i : Instr} {s t : State} (h : ExecEffect i s t)
    (hn : i.mnemonic ∉ ["addkr", "subkr", "addrrr", "adcrrr", "subrrr", "subcrrr", "movrS",
      "reti"]) :
    t.flags.ac = s.flags.ac ∧ t.flags.az = s.flags.az := by
  cases h with
  | addsOrSubtracts _ _ _ _ _ hm => exact name_excluded hm (by decide) hn
  | writesFlags _ _ hm | returnsFromInterrupt _ _ hm => exact name_excluded hm (by decide) hn
  | logical _ r => exact (logicFlags_keepsIAndAR s r).2
  | _ => exact ⟨rfl, rfl⟩

/-- I is as before but for the instructions that can write it (R35). -/
theorem ExecEffect.i_eq {i : Instr} {s t : State} (h : ExecEffect i s t)
    (hn : i.mnemonic ∉ ["dint", "eint", "movrS", "reti"]) : t.flags.i = s.flags.i := by
  cases h with
  | writesI _ _ hm | writesFlags _ _ hm | returnsFromInterrupt _ _ hm =>
    exact name_excluded hm (by decide) hn
  | addsOrSubtracts _ _ _ _ _ _ hi => exact hi
  | logical _ r => exact (logicFlags_keepsIAndAR s r).1
  | _ => rfl

/-- No free bit is drawn but by a logical instruction (R28, assumption log 6). -/
theorem ExecEffect.draws_eq {i : Instr} {s t : State} (h : ExecEffect i s t)
    (hn : i.mnemonic ∉ ["andkr", "orkr", "xorkr", "andrrr", "orrrr", "xorrrr", "neg", "not"]) :
    t.draws = s.draws := by
  cases h with
  | logical _ _ _ _ hm => exact name_excluded hm (by decide) hn
  | _ => rfl

end Sys2Proof.Machine
end

section
/-! SUPPORT. I is inert (10_state.md R35): each shared operation does the same on a state with another
I, and carries that I along. -/

namespace Sys2Proof.Machine

/-! ### Going on with another I -/

/-- An operation that reads what I has no part in, then one that carries I along. -/
theorem andThen_setI {α : Type} {r : Res α} {f f' : α → Res State} {b : Bool}
    (hf : ∀ a, f' a = andThen (f a) fun t => .next (t.setI b)) :
    andThen r f' = andThen (andThen r f) fun t => .next (t.setI b) := by
  cases r with
  | next a => exact hf a
  | fault | refused => rfl

/-- Two operations after each other that both carry I along. -/
theorem andThen_setI_setI {r r' : Res State} {f f' : State → Res State} {b : Bool}
    (hr : r' = andThen r fun t => .next (t.setI b))
    (hf : ∀ t, f' (t.setI b) = andThen (f t) fun u => .next (u.setI b)) :
    andThen r' f' = andThen (andThen r f) fun t => .next (t.setI b) := by
  subst hr
  cases r with
  | next t => exact hf t
  | fault | refused => rfl

/-! ### The shared operations -/

section
variable (s : State) (b : Bool)

theorem writeByte_setI (a : Word) (v : Byte) :
    writeByte (s.setI b) a v = andThen (writeByte s a v) fun t => .next (t.setI b) := by
  show (if s.inData a 1 then _ else _) = andThen (if s.inData a 1 then _ else _) _
  split <;> rfl

theorem writeWord_setI (a v : Word) :
    writeWord (s.setI b) a v = andThen (writeWord s a v) fun t => .next (t.setI b) := by
  refine andThen_setI (r := wordPlace s a) fun p => ?_
  show (if s.inData p 2 then _ else _) = andThen (if s.inData p 2 then _ else _) _
  split
  · exact andThen_setI_setI (writeByte_setI s b p _) fun t => writeByte_setI t b _ _
  · rfl

theorem pushWord_setI (v : Word) :
    pushWord (s.setI b) v = andThen (pushWord s v) fun t => .next (t.setI b) :=
  andThen_setI_setI (writeWord_setI s b _ v) fun _ => rfl

theorem storeWord_setI (a : Word) (rd : Reg) (len : Word) :
    storeWord (s.setI b) a rd len = andThen (storeWord s a rd len) fun t => .next (t.setI b) :=
  andThen_setI_setI (writeWord_setI s b a _) fun _ => rfl

theorem storeByte_setI (a : Word) (rd : Reg) (len : Word) :
    storeByte (s.setI b) a rd len = andThen (storeByte s a rd len) fun t => .next (t.setI b) :=
  andThen_setI_setI (writeByte_setI s b a _) fun _ => rfl

theorem callOp_setI (target len : Word) :
    callOp (s.setI b) target len = andThen (callOp s target len) fun t => .next (t.setI b) :=
  andThen_setI_setI (pushWord_setI s b _) fun _ => rfl

/-- What follows a pop carries I along where it does so of the state the pop leaves. -/
theorem popWord_setI {f f' : Word × State → Res State}
    (hf : ∀ v t, f' (v, t.setI b) = andThen (f (v, t)) fun u => .next (u.setI b)) :
    andThen (popWord (s.setI b)) f' =
      andThen (andThen (popWord s) f) fun t => .next (t.setI b) := by
  show andThen (andThen (readWord s (s.get .sp)) _) f' =
    andThen (andThen (andThen (readWord s (s.get .sp)) _) f) _
  cases readWord s (s.get .sp) with
  | next v => exact hf v (s.set .sp (s.get .sp + 2))
  | fault | refused => rfl

theorem logicOp_setI (rd : Reg) (r : Word) :
    logicOp (s.setI b) rd r = andThen (logicOp s rd r) fun t => .next (t.setI b) := by
  have h : logicFlags (s.setI b) r = (logicFlags s r).setI b := by
    unfold logicFlags
    rw [State.setI_cfg]
    cases s.cfg.logicCV <;> rfl
  simp only [logicOp, h]
  rfl

theorem condHolds_setI (cc : Cond) : condHolds cc (s.setI b).flags = condHolds cc s.flags := by
  cases cc <;> rfl

theorem branchOp_setI (cc : Cond) (a : BitVec 10) :
    branchOp cc a (s.setI b) = andThen (branchOp cc a s) fun t => .next (t.setI b) := by
  unfold branchOp
  rw [condHolds_setI]
  split <;> rfl

theorem execCmprr_setI (rs rd : Reg) :
    execCmprr rs rd (s.setI b) = andThen (execCmprr rs rd s) fun t => .next (t.setI b) := by
  unfold execCmprr
  rw [State.setI_cfg]
  cases s.cfg.cmprrLeft <;> rfl

theorem execPush_setI (rd : Reg) :
    execPush rd (s.setI b) = andThen (execPush rd s) fun t => .next (t.setI b) := by
  unfold execPush
  split
  · rfl
  · exact andThen_setI_setI (pushWord_setI s b _) fun _ => rfl

theorem execPop_setI (rd : Reg) :
    execPop rd (s.setI b) = andThen (execPop rd s) fun t => .next (t.setI b) := by
  unfold execPop
  split
  · rfl
  · exact popWord_setI s b fun _ _ => rfl

end

/-! ### The instructions -/

/-- An instruction that neither copies nor writes I does the same whatever I is. -/
theorem exec_setI {i : Instr} (s : State) (b : Bool)
    (hm : i.mnemonic ∉ ["movSr", "movrS", "dint", "eint", "reti"]) :
    exec i (s.setI b) = andThen (exec i s) fun t => .next (t.setI b) := by
  cases i with
  | movSr | movrS | dint | eint | reti => exact absurd (mnemonic_mem rfl) hm
  | breq | brne | bruge | brult | brlt | brge | brugt | brgt => exact branchOp_setI s b _ _
  | callrel | calladr | callreg => exact callOp_setI s b _ _
  | cmprr => exact execCmprr_setI s b _ _
  | andkr | orkr | xorkr | andrrr | orrrr | xorrrr | neg | notrr => exact logicOp_setI s b _ _
  | mov16mr | movs8mr | mov16nr | mov8znr | mov8snr | mov16ar | mov8zar | mov8sar
  | mov16Mr | mov8zMr | mov8sMr | mov16pr => exact andThen_setI fun _ => rfl
  | mov16rm | mov16rn | mov16ra | mov16rM => exact storeWord_setI s b _ _ _
  | mov8rm | mov8rn | mov8ra | mov8rM => exact storeByte_setI s b _ _ _
  | push => exact execPush_setI s b _
  | pop => exact execPop_setI s b _
  | ret => exact popWord_setI s b fun _ _ => rfl
  -- The rest complete in every state, with values that I has no part in, or are reserved.
  | _ => rfl

end Sys2Proof.Machine
end

section
/-! SUPPORT. The condition codes: their numbers in the encodings, the flags they test, and the compares
(10_state.md R26, R31). -/

namespace Sys2Proof.Machine

theorem flagNat_eq_toNat (b : Bool) : flagNat b = b.toNat := by
  cases b <;> rfl

/-- Overflow says that the signed sum is not the result read as signed (10_state.md R26). -/
theorem addWithCarry_overflow (a b : Word) (cin : Bool) :
    (addWithCarry a b cin).overflow = true ↔
      a.toInt + b.toInt + flagNat cin ≠ (addWithCarry a b cin).result.toInt := by
  rw [flagNat_eq_toNat]
  exact decide_eq_true_iff

/-- The number of a condition code in an encoding (10_state.md R31). -/
def condNumber : Cond → BitVec 3
  | .eq => 0
  | .ne => 1
  | .uge => 2
  | .ult => 3
  | .lt => 4
  | .ge => 5
  | .ugt => 6
  | .gt => 7

/-- The numbers are the places in the order of R31. -/
theorem condNumber_of_getElem? {n : Nat} {cc : Cond}
    (h : ([Cond.eq, .ne, .uge, .ult, .lt, .ge, .ugt, .gt] : List Cond)[n]? = some cc) :
    (condNumber cc).toNat = n := by
  obtain ⟨hn, rfl⟩ := List.getElem?_eq_some_iff.1 h
  have all : ∀ k : Fin 8,
      (condNumber [Cond.eq, .ne, .uge, .ult, .lt, .ge, .ugt, .gt][k]).toNat = k := by
    decide
  exact all ⟨n, hn⟩

theorem encode_branchInstr (cc : Cond) (a : BitVec 10) :
    encode (branchInstr cc a) = [encodeT2 (condNumber cc) a] := by
  cases cc <;> rfl

theorem encode_selectInstr (cc : Cond) (rn rs rd : Reg) :
    encode (selectInstr cc rn rs rd) = [encodeT6 (condNumber cc) rn rs rd] := by
  cases cc <;> rfl

theorem encode_setInstr (cc : Cond) (x : BitVec 3) (rd : Reg) :
    encode (setInstr cc x rd) = [encodeT7 (condNumber cc) x rd] := by
  cases cc <;> rfl

/-- Bits 12:10 of a T2, T6 or T7 word hold the number of the condition (30_encoding.md R84, R88,
R89). -/
theorem condField_encodeT2 (cc : BitVec 3) (a : BitVec 10) :
    (encodeT2 cc a).toNat / 1024 % 8 = cc.toNat := by
  rw [encodeT2_toNat]
  omega

theorem condField_encodeT6 (cc : BitVec 3) (rn rs rd : Reg) :
    (encodeT6 cc rn rs rd).toNat / 1024 % 8 = cc.toNat := by
  rw [encodeT6_toNat]
  omega

theorem condField_encodeT7 (cc x : BitVec 3) (rd : Reg) :
    (encodeT7 cc x rd).toNat / 1024 % 8 = cc.toNat := by
  rw [encodeT7_toNat]
  omega

/-- A condition reads the SR flags alone. -/
theorem condHolds_congr (cc : Cond) {f g : Flags} (hz : f.z = g.z) (hc : f.c = g.c)
    (hs : f.s = g.s) (hv : f.v = g.v) : condHolds cc f = condHolds cc g := by
  cases cc <;> simp only [condHolds, hz, hc, hs, hv]

/-- `ule`, the opposite of `ugt`, on the flags. -/
theorem condHolds_ugt_eq_false (f : Flags) :
    condHolds .ugt f = false ↔ f.c = false ∨ f.z = true := by
  simp only [condHolds, Bool.and_eq_false_iff, Bool.not_eq_false']

/-- `le`, the opposite of `gt`, on the flags. -/
theorem condHolds_gt_eq_false (f : Flags) :
    condHolds .gt f = false ↔ f.s ≠ f.v ∨ f.z = true := by
  simp only [condHolds, Bool.and_eq_false_iff, Bool.not_eq_false', beq_eq_false_iff_ne]

/-- After a compare each condition says what R31 says of the operands. -/
theorem compareOp_condHolds {s t : State} {a b : Word} (h : compareOp s a b = .next t)
    (cc : Cond) : condHolds cc t.flags = true ↔ CondRelates cc a b := by
  cases h
  exact condHolds_compare cc s.flags a b

/-- `ule` after a compare. -/
theorem compareOp_ule {s t : State} {a b : Word} (h : compareOp s a b = .next t) :
    condHolds .ugt t.flags = false ↔ a.toNat ≤ b.toNat := by
  rw [← Bool.not_eq_true, compareOp_condHolds h, CondRelates, Nat.not_lt]

/-- `le` after a compare. -/
theorem compareOp_le {s t : State} {a b : Word} (h : compareOp s a b = .next t) :
    condHolds .gt t.flags = false ↔ a.toInt ≤ b.toInt := by
  rw [← Bool.not_eq_true, compareOp_condHolds h, CondRelates, Int.not_lt]

/-- `cmpkr` compares with the word of the immediate's signed value. -/
theorem exec_cmpkr_eq {s : State} {k : BitVec 8} {rd : Reg} {b : Word} (hb : b.toInt = k.toInt) :
    exec (.cmpkr k rd) s = compareOp s (s.get rd) b := by
  obtain rfl : b = sext8 k := BitVec.eq_of_toInt_eq (hb.trans (sext8_toInt k).symm)
  rfl

theorem execCmprr_of_rd {s : State} {rs rd : Reg} (h : s.cfg.cmprrLeft = .rd) :
    execCmprr rs rd s = compareOp s (s.get rd) (s.get rs) := by
  simp only [execCmprr, h]

theorem execCmprr_of_rs {s : State} {rs rd : Reg} (h : s.cfg.cmprrLeft = .rs) :
    execCmprr rs rd s = compareOp s (s.get rs) (s.get rd) := by
  simp only [execCmprr, h]

end Sys2Proof.Machine
end

section
/-! SUPPORT. Where a read of a byte or of a program word faults (70_reset_and_hazards.md R252). -/

namespace Sys2Proof.Machine

theorem readByte_eq_fault {s : State} {a : Word} :
    readByte s a = .fault .dataByteNoValue ↔
      a.toNat < s.cfg.dmemBytes ∧ Memory.find s.dmem a.toNat = none := by
  unfold readByte State.inData
  by_cases h : a.toNat + 1 ≤ s.cfg.dmemBytes
  · have h' : a.toNat < s.cfg.dmemBytes := h
    simp only [h, h', decide_true, if_true, true_and]
    cases Memory.find s.dmem a.toNat <;> simp
  · have h' : ¬ a.toNat < s.cfg.dmemBytes := h
    simp [h, h']

theorem readProg_eq_fault {s : State} {a : Word} :
    readProg s a = .fault .programWordNoValue ↔
      a.toNat < s.cfg.pmemWords ∧ Memory.find s.pmem a.toNat = none := by
  unfold readProg
  by_cases h : a.toNat < s.cfg.pmemWords
  · simp only [h, if_true, true_and]
    cases Memory.find s.pmem a.toNat <;> simp
  · simp [h]

end Sys2Proof.Machine
end

section
/-! PROOFS. The statements on 10_state.md. -/

open Sys2Proof Sys2Proof.Machine

/-- Settles O59: two pushes and one instruction each keep the form, and so does the boundary. -/
theorem memoryFormInvariant : Obligations.MemoryFormInvariant :=
  fun _ _ hf h => step_memoryForm hf h

/-- Settles O12, operation by operation: each carries another I along. -/
theorem interruptFlagIsInert : Obligations.InterruptFlagIsInert :=
  fun _ s b hm => exec_setI s b hm

/-- Settles O26: the sums and differences of Laws/Flags, with `flagNat` for the carry in. -/
theorem addWithCarryExact : Obligations.AddWithCarryExact := by
  refine ⟨fun a b cin => ⟨?_, addWithCarry_overflow a b cin⟩, fun a b => ?_⟩
  · rw [flagNat_eq_toNat]
    exact addWithCarry_isSum a b cin
  · obtain ⟨hr, hc, hv⟩ := subWithCarry_isDifference a b true
    exact ⟨⟨hr, hc, hv⟩, hc⟩

/-- Settles O29: the numbers stand in bits 12:10, and a compare leaves the flags of its operands'
difference. -/
theorem conditionsAfterCompare : Obligations.ConditionsAfterCompare := by
  refine ⟨fun n cc hn => ?_, condHolds_iff, fun cc _ _ => condHolds_congr cc,
    fun f => ⟨condHolds_ugt_eq_false f, condHolds_gt_eq_false f⟩, ?_, ?_⟩
  · obtain rfl := condNumber_of_getElem? hn
    exact ⟨fun a => ⟨_, encode_branchInstr cc a, condField_encodeT2 _ a⟩,
      fun rn rs rd => ⟨_, encode_selectInstr cc rn rs rd, condField_encodeT6 _ rn rs rd⟩,
      fun x rd => ⟨_, encode_setInstr cc x rd, condField_encodeT7 _ x rd⟩⟩
  · intro s t k rd b h hb
    rw [exec_cmpkr_eq hb] at h
    exact ⟨compareOp_condHolds h, compareOp_ule h, compareOp_le h⟩
  · intro s t rs rd cc h
    exact ⟨fun hl => compareOp_condHolds ((execCmprr_of_rd hl).symm.trans h) cc,
      fun hl => compareOp_condHolds ((execCmprr_of_rs hl).symm.trans h) cc⟩

/-- Settles O54, by the effect of each kind of instruction on the flags. -/
theorem flagWriters : Obligations.FlagWriters := by
  intro i s t h
  have e := exec_effect h
  exact ⟨e.sr_eq, e.ar_eq, e.i_eq, e.draws_eq⟩

/-- Settles O55, by the effect of each kind of instruction on the registers. -/
theorem registerWriters : Obligations.RegisterWriters :=
  fun _ _ _ _ h hd hsp => (exec_effect h).get_eq hd hsp

/-- Settles O57, by the effect of each kind of instruction on `pc`. -/
theorem pcAdvances : Obligations.PcAdvances :=
  fun _ _ _ h hn => (exec_effect h).pc_advances hn

/-- Settles O43: with distinct positions, unpacking undoes packing. -/
theorem srarRoundTrip : Obligations.SrarRoundTrip := by
  intro s t x y rd hl h
  cases h
  refine ⟨_, rfl, ?_⟩
  show unpackSrar s.cfg.srarLayout ((s.set rd (packSrar s.cfg.srarLayout s.flags)).get rd) = s.flags
  rw [State.get_set_same, unpackSrar_packSrar _ _ hl]

/-- Settles O60: a read after reset finds what the host defined at the address, and nothing else. -/
theorem resetState : Obligations.ResetState := by
  refine ⟨fun c image data offers => ⟨rfl, rfl, rfl, rfl, fun a w ha => ⟨?_, ?_⟩,
      fun a b ha => ⟨?_, ?_⟩, fun hi hd => ⟨hd, hi⟩⟩,
    rfl, rfl, rfl, fun a => ?_, fun a => ?_, rfl, rfl, rfl⟩
  · exact readProg_eq_next.trans (and_iff_right ha)
  · exact readProg_eq_fault.trans (and_iff_right ha)
  · exact readByte_eq_next.trans (and_iff_right ha)
  · exact readByte_eq_fault.trans (and_iff_right ha)
  · exact readByte_eq_fault.2 ⟨a.isLt, rfl⟩
  · exact readProg_eq_fault.2 ⟨a.isLt, rfl⟩

end

section
/-! SUPPORT. Where an operation on a memory is refused, and which instruction makes which access
(20_memory.md R53, R55, R57). -/

namespace Sys2Proof.Machine

/-! ### Going on: what is refused, and two steps in a row -/

theorem andThen_eq_refused {α β : Type} {r : Res α} {f : α → Res β} {e : Refusal} :
    andThen r f = .refused e ↔ r = .refused e ∨ ∃ a, r = .next a ∧ f a = .refused e := by
  cases r <;> simp [andThen]

/-- Where what follows is never refused, a refusal is that of the operation before it. -/
theorem refused_of_andThen {α β : Type} {r : Res α} {f : α → Res β} {e : Refusal}
    (h : andThen r f = .refused e) (hf : ∀ a, f a ≠ .refused e) : r = .refused e := by
  obtain hr | ⟨a, -, ha⟩ := andThen_eq_refused.1 h
  · exact hr
  · exact absurd ha (hf a)

theorem andThen_assoc {α β γ : Type} (r : Res α) (f : α → Res β) (g : β → Res γ) :
    andThen (andThen r f) g = andThen r fun a => andThen (f a) g := by
  cases r <;> rfl

/-! ### Bytes and program words (R55) -/

/-- Every address is below the default size of a memory. -/
theorem not_size_le_toNat (a : Word) {size : Nat} (h : size = 65536) : ¬ size ≤ a.toNat := by
  have := a.isLt
  omega

theorem readByte_eq_refused {s : State} {a : Word} {e : Refusal} :
    readByte s a = .refused e ↔ s.cfg.dmemBytes ≤ a.toNat ∧ e = .addressOutsideMemory := by
  unfold readByte State.inData
  by_cases h : s.cfg.dmemBytes ≤ a.toNat
  · have hin : ¬ a.toNat + 1 ≤ s.cfg.dmemBytes := by omega
    simp [h, hin, eq_comm]
  · have hin : a.toNat + 1 ≤ s.cfg.dmemBytes := by omega
    simp only [h, hin, decide_true, if_true, false_and, iff_false]
    cases Memory.find s.dmem a.toNat <;> exact nofun

theorem writeByte_eq_refused {s : State} {a : Word} {b : Byte} {e : Refusal} :
    writeByte s a b = .refused e ↔ s.cfg.dmemBytes ≤ a.toNat ∧ e = .addressOutsideMemory := by
  unfold writeByte State.inData
  by_cases h : s.cfg.dmemBytes ≤ a.toNat
  · have hin : ¬ a.toNat + 1 ≤ s.cfg.dmemBytes := by omega
    simp [h, hin, eq_comm]
  · have hin : a.toNat + 1 ≤ s.cfg.dmemBytes := by omega
    simp [h, hin]

theorem readProg_eq_refused {s : State} {a : Word} {e : Refusal} :
    readProg s a = .refused e ↔ s.cfg.pmemWords ≤ a.toNat ∧ e = .addressOutsideMemory := by
  unfold readProg
  by_cases h : a.toNat < s.cfg.pmemWords
  · simp only [h, if_true, Nat.not_le.2 h, false_and, iff_false]
    cases Memory.find s.pmem a.toNat <;> exact nofun
  · simp [h, Nat.not_lt.1 h, eq_comm]

/-! ### The place of a word access (R53) -/

/-- The place of a word access is refused exactly at an odd address with
`MISALIGNED_WORD = refuse`. -/
theorem wordPlace_eq_refused {s : State} {a : Word} {e : Refusal} :
    wordPlace s a = .refused e ↔
      (a.toNat % 2 = 1 ∧ s.cfg.misaligned = .refuse) ∧ e = .misalignedWord := by
  have hb : a.getLsbD 0 = decide (a.toNat % 2 = 1) := by
    simp [BitVec.getLsbD, Nat.testBit_zero]
  unfold wordPlace
  rw [hb]
  by_cases h : a.toNat % 2 = 1
  · cases s.cfg.misaligned <;> simp [h, eq_comm]
  · simp [h]

/-- With `clear_bit0` an odd address has the place of the address below it. -/
theorem wordPlace_clearBit0 {s : State} {a : Word} (ha : a.toNat % 2 = 1)
    (hc : s.cfg.misaligned = .clearBit0) : wordPlace s a = wordPlace s (a - 1) := by
  have below : (a - 1).toNat + 1 = a.toNat := by bv_omega
  have odd : wordPlace s a = .next (a - 1) := wordPlace_eq_next.2 (.inr ⟨ha, hc, below⟩)
  have even : wordPlace s (a - 1) = .next (a - 1) := wordPlace_eq_next.2 (.inl ⟨by omega, rfl⟩)
  rw [odd, even]

theorem performedAt_of_even {s : State} {a p : Word} (ha : a.toNat % 2 = 0) :
    PerformedAt s a p ↔ p = a := by
  simp [PerformedAt, ha]

/-- A word at an even address fits a data memory of 65536 bytes: its second byte does not wrap. -/
theorem wordFits_of_full {s : State} {p : Word} (hp : p.toNat % 2 = 0)
    (hd : s.cfg.dmemBytes = 65536) : WordFits s p := by
  have := p.isLt
  unfold WordFits
  omega

/-! ### Words (R51, R52, R53, R55) -/

theorem readWord_of_place_refused {s : State} {a : Word} {e : Refusal}
    (h : wordPlace s a = .refused e) : readWord s a = .refused e := by
  simp only [readWord, h, andThen_refused]

theorem writeWord_of_place_refused {s : State} {a v : Word} {e : Refusal}
    (h : wordPlace s a = .refused e) : writeWord s a v = .refused e := by
  simp only [writeWord, h, andThen_refused]

theorem readWord_congr_place {s : State} {a b : Word} (h : wordPlace s a = wordPlace s b) :
    readWord s a = readWord s b := by
  simp only [readWord, h]

theorem writeWord_congr_place {s : State} {a b v : Word} (h : wordPlace s a = wordPlace s b) :
    writeWord s a v = writeWord s b v := by
  simp only [writeWord, h]

/-- A word store is refused where one of its two bytes is outside data memory. -/
theorem writeWord_of_not_fits {s : State} {a p v : Word} (hp : PerformedAt s a p)
    (hf : ¬ WordFits s p) : writeWord s a v = .refused .addressOutsideMemory := by
  have hin : s.inData p 2 = false := by simpa [State.inData, WordFits] using hf
  simp only [writeWord, wordPlace_eq_next.2 hp, andThen_next, hin, Bool.false_eq_true, if_false]

/-- Why a word access at an address is refused: its place is, or one of the two bytes there is
outside data memory. -/
def WordRefused (s : State) (a : Word) (e : Refusal) : Prop :=
  wordPlace s a = .refused e ∨
    ∃ p, PerformedAt s a p ∧ ¬ WordFits s p ∧ e = .addressOutsideMemory

theorem readWord_refused {s : State} {a : Word} {e : Refusal} (h : readWord s a = .refused e) :
    WordRefused s a e := by
  obtain hw | ⟨p, hw, h⟩ := andThen_eq_refused.1 h
  · exact .inl hw
  · have hp := wordPlace_eq_next.1 hw
    have hs := toNat_succ_of_even hp.even
    obtain h | ⟨lower, -, h⟩ := andThen_eq_refused.1 h
    · obtain ⟨hout, he⟩ := readByte_eq_refused.1 h
      exact .inr ⟨p, hp, by unfold WordFits; omega, he⟩
    · obtain ⟨hout, he⟩ := readByte_eq_refused.1 (refused_of_andThen h fun _ => nofun)
      exact .inr ⟨p, hp, by unfold WordFits; omega, he⟩

theorem writeWord_refused {s : State} {a v : Word} {e : Refusal}
    (h : writeWord s a v = .refused e) : WordRefused s a e := by
  cases hw : wordPlace s a with
  | fault => simp [writeWord, hw] at h
  | refused e' =>
    rw [writeWord_of_place_refused hw] at h
    cases h
    exact .inl hw
  | next p =>
    have hp := wordPlace_eq_next.1 hw
    by_cases hf : WordFits s p
    · rw [writeWord_eq_next.2 ⟨p, hp, hf, rfl⟩] at h
      cases h
    · rw [writeWord_of_not_fits hp hf] at h
      cases h
      exact .inr ⟨p, hp, hf, rfl⟩

/-- A word access is refused as misaligned only at an odd address. -/
theorem WordRefused.odd {s : State} {a : Word} (h : WordRefused s a .misalignedWord) :
    a.toNat % 2 = 1 := by
  obtain h | ⟨_, _, _, h⟩ := h
  · exact (wordPlace_eq_refused.1 h).1.1
  · cases h

/-- No word access is outside a data memory of 65536 bytes. -/
theorem WordRefused.not_outside {s : State} {a : Word} (hd : s.cfg.dmemBytes = 65536) :
    ¬ WordRefused s a .addressOutsideMemory := by
  rintro (h | ⟨p, hp, hf, -⟩)
  · cases (wordPlace_eq_refused.1 h).2
  · exact hf (wordFits_of_full hp.even hd)

/-! ### The access an instruction makes first (R57) -/

theorem popWord_andThen {α : Type} (s : State) (f : Word × State → Res α) :
    andThen (popWord s) f =
      andThen (readWord s (s.get .sp)) fun v => f (v, s.set .sp (s.get .sp + 2)) :=
  andThen_assoc _ _ _

theorem pushWord_andThen {α : Type} (s : State) (v : Word) (f : State → Res α) :
    andThen (pushWord s v) f =
      andThen (writeWord s (s.get .sp - 2) v) fun t => f (t.set .sp (s.get .sp - 2)) :=
  andThen_assoc _ _ _

theorem exec_byteLoad {i : Instr} {s : State} {a : Word} (h : byteLoadAt i s = some a) :
    ∃ f, exec i s = andThen (readByte s a) f := by
  cases i with
  | movs8mr | mov8znr | mov8snr | mov8zar | mov8sar | mov8zMr | mov8sMr =>
    cases h
    exact ⟨_, rfl⟩
  | _ => cases h

theorem exec_byteStore {i : Instr} {s : State} {a : Word} (h : byteStoreAt i s = some a) :
    ∃ b f, exec i s = andThen (writeByte s a b) f := by
  cases i with
  | mov8rm | mov8rn | mov8ra | mov8rM =>
    cases h
    exact ⟨_, _, rfl⟩
  | _ => cases h

theorem exec_wordLoad {i : Instr} {s : State} {a : Word} (h : wordLoadAt i s = some a) :
    ∃ f, exec i s = andThen (readWord s a) f := by
  cases i with
  | mov16mr | mov16nr | mov16ar | mov16Mr =>
    cases h
    exact ⟨_, rfl⟩
  | ret =>
    cases h
    exact ⟨_, popWord_andThen s _⟩
  | pop x rd =>
    obtain ⟨hsp, ha⟩ := Option.ite_none_left_eq_some.1 h
    cases ha
    exact ⟨_, (if_neg hsp).trans (popWord_andThen s _)⟩
  | reti =>
    simp only [wordLoadAt] at h
    simp only [exec, execReti]
    cases hm : s.cfg.irqModel with
    | noDelivery => simp [hm] at h
    | candidateA =>
      simp only [hm, Option.some.injEq] at h
      subst h
      exact ⟨_, popWord_andThen s _⟩
  | _ => cases h

theorem exec_wordStore {i : Instr} {s : State} {a : Word} (h : wordStoreAt i s = some a) :
    ∃ v f, exec i s = andThen (writeWord s a v) f := by
  cases i with
  | mov16rm | mov16rn | mov16ra | mov16rM =>
    cases h
    exact ⟨_, _, rfl⟩
  | callrel | calladr | callreg =>
    cases h
    exact ⟨_, _, pushWord_andThen s _ _⟩
  | push x rd =>
    obtain ⟨hsp, ha⟩ := Option.ite_none_left_eq_some.1 h
    cases ha
    exact ⟨_, _, (if_neg hsp).trans (pushWord_andThen s _ _)⟩
  | _ => cases h

end Sys2Proof.Machine
end

section
/-! SUPPORT. Every reason an instruction is refused for, said once (60_exceptions.md R231). -/

namespace Sys2Proof.Machine

/-- Why an instruction is refused: the spec gives it no meaning in this state, or an access that it
makes is refused. Of the word loads, `reti` makes a second one. -/
inductive ExecRefusal (i : Instr) (s : State) (e : Refusal) : Prop
  | noMeaning (he : e ∈ [.reservedEncoding, .pushSpNotSpecified, .popSpNotSpecified,
      .retiNotSpecified])
  | byteLoad (a : Word) (ha : byteLoadAt i s = some a) (h : readByte s a = .refused e)
  | byteStore (a : Word) (b : Byte) (ha : byteStoreAt i s = some a)
      (h : writeByte s a b = .refused e)
  | wordLoad (a : Word) (ha : wordLoadAt i s ≠ none) (h : readWord s a = .refused e)
  | wordStore (a v : Word) (ha : wordStoreAt i s = some a) (h : writeWord s a v = .refused e)
  | programRead (a : Word) (h : readProg s a = .refused e)

namespace ExecRefusal

variable {i : Instr} {s : State} {e : Refusal}

theorem of_branchOp {cc : Cond} {a : BitVec 10} (h : branchOp cc a s = .refused e) :
    ExecRefusal i s e := by
  unfold branchOp at h
  split at h <;> cases h

theorem of_cmprr {rs rd : Reg} (h : execCmprr rs rd s = .refused e) : ExecRefusal i s e := by
  unfold execCmprr at h
  split at h <;> cases h

theorem of_callOp {target len : Word} (ha : wordStoreAt i s = some (s.get .sp - 2))
    (h : callOp s target len = .refused e) : ExecRefusal i s e := by
  rw [callOp, pushWord_andThen] at h
  exact .wordStore _ _ ha (refused_of_andThen h fun _ => nofun)

theorem of_push {x : BitVec 3} {rd : Reg} (h : execPush rd s = .refused e) :
    ExecRefusal (.push x rd) s e := by
  unfold execPush at h
  split at h
  · cases h
    exact .noMeaning (by decide)
  · rename_i hsp
    rw [pushWord_andThen] at h
    exact .wordStore _ _ (if_neg hsp) (refused_of_andThen h fun _ => nofun)

theorem of_pop {x : BitVec 3} {rd : Reg} (h : execPop rd s = .refused e) :
    ExecRefusal (.pop x rd) s e := by
  unfold execPop at h
  split at h
  · cases h
    exact .noMeaning (by decide)
  · rename_i hsp
    rw [popWord_andThen] at h
    exact .wordLoad _ (by simp [wordLoadAt, hsp]) (refused_of_andThen h fun _ => nofun)

theorem of_ret {x : BitVec 6} (h : execRet s = .refused e) : ExecRefusal (.ret x) s e := by
  rw [execRet, popWord_andThen] at h
  exact .wordLoad _ nofun (refused_of_andThen h fun _ => nofun)

theorem of_reti {x : BitVec 6} (h : execReti s = .refused e) : ExecRefusal (.reti x) s e := by
  unfold execReti at h
  split at h
  · cases h
    exact .noMeaning (by decide)
  · rename_i hm
    have ha : wordLoadAt (.reti x) s ≠ none := by simp [wordLoadAt, hm]
    simp only [interruptReturn, popWord_andThen] at h
    obtain h | ⟨w, -, h⟩ := andThen_eq_refused.1 h
    · exact .wordLoad _ ha h
    · have h2 := refused_of_andThen h fun _ => nofun
      exact .wordLoad _ ha ((readWord_congr rfl rfl _).symm.trans h2)

end ExecRefusal

/-- An instruction that is refused is so for a reason of its kind. -/
theorem exec_refusal {i : Instr} {s : State} {e : Refusal} (h : exec i s = .refused e) :
    ExecRefusal i s e := by
  cases i with
  | breq | brne | bruge | brult | brlt | brge | brugt | brgt => exact .of_branchOp h
  | cmprr => exact .of_cmprr h
  | movs8mr | mov8znr | mov8snr | mov8zar | mov8sar | mov8zMr | mov8sMr =>
    exact .byteLoad _ rfl (refused_of_andThen h fun _ => nofun)
  | mov8rm | mov8rn | mov8ra | mov8rM =>
    exact .byteStore _ _ rfl (refused_of_andThen h fun _ => nofun)
  | mov16mr | mov16nr | mov16ar | mov16Mr =>
    exact .wordLoad _ nofun (refused_of_andThen h fun _ => nofun)
  | mov16rm | mov16rn | mov16ra | mov16rM =>
    exact .wordStore _ _ rfl (refused_of_andThen h fun _ => nofun)
  | mov16pr => exact .programRead _ (refused_of_andThen h fun _ => nofun)
  | callrel | calladr | callreg => exact .of_callOp rfl h
  | push => exact .of_push h
  | pop => exact .of_pop h
  | ret => exact .of_ret h
  | reti => exact .of_reti h
  | reservedT3_111 | reservedT5_0111 | reservedT5_1000 | reservedT5_1110 | reservedT5_1111
  | reservedT8_100 | reservedT8_101 | reservedT8_110
  | reservedT9_100_0 | reservedT9_101_0 | reservedT9_110_1 | reservedT9_111_1
  | reservedT10_110_00 | reservedT10_011_01 | reservedT10_100_01 | reservedT10_111_01
  | reservedT10_110_10 | reservedT10_111_10 | reservedT10_xxx_11 =>
    cases h
    exact .noMeaning (by decide)
  -- The rest complete in every state.
  | _ => cases h

/-- Only a word access can be misaligned (R53). -/
theorem ExecRefusal.wordAccess {i : Instr} {s : State} (h : ExecRefusal i s .misalignedWord) :
    wordLoadAt i s ≠ none ∨ wordStoreAt i s ≠ none := by
  cases h with
  | noMeaning he => exact absurd he (by decide)
  | byteLoad _ _ h => cases (readByte_eq_refused.1 h).2
  | byteStore _ _ _ h => cases (writeByte_eq_refused.1 h).2
  | programRead _ h => cases (readProg_eq_refused.1 h).2
  | wordLoad _ ha => exact .inl ha
  | wordStore _ _ ha => exact .inr (by simp [ha])

/-- No access is outside memories of the default sizes (R55). -/
theorem ExecRefusal.not_outside {i : Instr} {s : State} (hd : s.cfg.dmemBytes = 65536)
    (hp : s.cfg.pmemWords = 65536) : ¬ ExecRefusal i s .addressOutsideMemory := by
  intro h
  cases h with
  | noMeaning he => exact absurd he (by decide)
  | byteLoad a _ h => exact not_size_le_toNat a hd (readByte_eq_refused.1 h).1
  | byteStore a _ _ h => exact not_size_le_toNat a hd (writeByte_eq_refused.1 h).1
  | programRead a h => exact not_size_le_toNat a hp (readProg_eq_refused.1 h).1
  | wordLoad _ _ h => exact WordRefused.not_outside hd (readWord_refused h)
  | wordStore _ _ _ h => exact WordRefused.not_outside hd (writeWord_refused h)

end Sys2Proof.Machine
end

section
/-! SUPPORT. The fetch, the step where no interrupt entry is due, and the state with an instruction
boundary passed (20_memory.md R56, 60_exceptions.md R236). -/

namespace Sys2Proof.Machine

/-! ### Passing a boundary -/

section
variable (s : State)

@[simp] theorem passOffer_cfg : (passOffer s).cfg = s.cfg := by
  obtain ⟨l, e⟩ := passOffer_eq s
  rw [e]

@[simp] theorem passOffer_pc : (passOffer s).pc = s.pc := by
  obtain ⟨l, e⟩ := passOffer_eq s
  rw [e]

@[simp] theorem passOffer_pmem : (passOffer s).pmem = s.pmem := by
  obtain ⟨l, e⟩ := passOffer_eq s
  rw [e]

end

theorem passOffer_of_held {s : State} {rest : List Bool} (h : s.irqOffers = true :: rest)
    (hi : s.flags.i = false) : passOffer s = s := by
  simp [passOffer, h, hi]

theorem passOffer_of_behind {s : State} {rest : List Bool} (h : s.irqOffers = true :: rest)
    (hi : s.flags.i = true) : passOffer s = s.withOffers rest := by
  simp [passOffer, h, hi, State.withOffers]

theorem passOffer_of_noOffer {s : State} {rest : List Bool} (h : s.irqOffers = false :: rest) :
    passOffer s = s.withOffers rest := by
  simp [passOffer, h, State.withOffers]

/-! ### The fetch -/

theorem fetchInstr_congr {s t : State} (hm : t.pmem = s.pmem) (hc : t.cfg = s.cfg)
    (hp : t.pc = s.pc) : fetchInstr t = fetchInstr s := by
  simp only [fetchInstr, readProg_congr hm hc, hc, hp]

/-- A refused fetch is one of a word with an x bit set, or of a word outside program memory. -/
theorem fetchInstr_refused {s : State} {e : Refusal} (h : fetchInstr s = .refused e) :
    e = .nonzeroXBits ∨ ∃ a, readProg s a = .refused e := by
  obtain h | ⟨w, -, h⟩ := andThen_eq_refused.1 h
  · exact .inr ⟨_, h⟩
  · split at h
    · split at h
      · exact .inr ⟨_, refused_of_andThen h fun _ => nofun⟩
      · cases h
    · cases h
      exact .inl rfl

theorem fetchInstr_of_first_refused {s : State} {e : Refusal} (h : readProg s s.pc = .refused e) :
    fetchInstr s = .refused e := by
  simp only [fetchInstr, h, andThen_refused]

theorem fetchInstr_of_second_refused {s : State} {w : Word} {e : Refusal}
    (hw : readProg s s.pc = .next w) (hx : (decode w 0).wellFormed s.cfg.strictX = true)
    (h2 : twoWords w = true) (h : readProg s (s.pc + 1) = .refused e) :
    fetchInstr s = .refused e := by
  simp only [fetchInstr, hw, andThen_next, hx, h2, if_true, h, andThen_refused]

/-- Where the one word at `pc` is an instruction, the fetch answers it. -/
theorem fetchInstr_of_decode_one {s : State} {w : Word} {i : Instr}
    (hw : readProg s s.pc = .next w) (h : decodeWords s.cfg.strictX [w] = .ok (i, [])) :
    fetchInstr s = .next i := by
  simp only [decodeWords] at h
  split at h
  · rename_i hx
    split at h
    · cases h
    · rename_i h2
      cases h
      exact fetchInstr_eq_next.2 ⟨w, hw, hx, .inl ⟨by simpa using h2, rfl⟩⟩
  · cases h

/-- Where the two words at `pc` are an instruction, the fetch answers it. -/
theorem fetchInstr_of_decode_two {s : State} {w k : Word} {i : Instr}
    (hw : readProg s s.pc = .next w) (hk : readProg s (s.pc + 1) = .next k)
    (h : decodeWords s.cfg.strictX [w, k] = .ok (i, [])) : fetchInstr s = .next i := by
  simp only [decodeWords] at h
  split at h
  · rename_i hx
    split at h
    · rename_i h2
      cases h
      exact fetchInstr_eq_next.2 ⟨w, hw, hx, .inr ⟨h2, k, hk, rfl⟩⟩
    · cases h
  · cases h

/-! ### The step -/

/-- Where no interrupt entry is due, the step is the instruction at `pc`; passing the boundary
changes no word it is fetched from. -/
theorem step_of_notDue {s : State} (h : interruptDue s = none) :
    step s = andThen (fetchInstr s) fun i => exec i (passOffer s) := by
  have hf : fetchInstr (passOffer s) = fetchInstr s :=
    fetchInstr_congr (passOffer_pmem s) (passOffer_cfg s) (passOffer_pc s)
  simp only [step, h, hf]

theorem step_of_fetch_refused {s : State} {e : Refusal} (hn : NoInterrupt 1 s)
    (h : fetchInstr s = .refused e) : step s = .refused e := by
  rw [step_of_notDue (interruptDue_none_of_quiet (noInterrupt_one.1 hn)), h, andThen_refused]

/-! ### What every step keeps (R50, R62) -/

theorem ExecEffect.cfg_eq {i : Instr} {s t : State} (h : ExecEffect i s t) : t.cfg = s.cfg := by
  cases h with
  | logical => simp
  | _ => rfl

theorem interruptEntry_pmem_cfg {s t : State} {vector : Word}
    (h : interruptEntry vector s = .next t) : t.pmem = s.pmem ∧ t.cfg = s.cfg := by
  obtain ⟨s1, s2, h1, h2, rfl⟩ := interruptEntry_eq_next.1 h
  obtain ⟨_, -, -, rfl⟩ := pushWord_eq_next.1 h1
  obtain ⟨_, -, -, rfl⟩ := pushWord_eq_next.1 h2
  exact ⟨rfl, rfl⟩

theorem step_pmem_cfg {s t : State} (h : step s = .next t) : t.pmem = s.pmem ∧ t.cfg = s.cfg := by
  rw [← passOffer_pmem s, ← passOffer_cfg s]
  obtain ⟨vector, -, he⟩ | ⟨-, i, -, hx⟩ := step_eq_next.1 h
  · exact interruptEntry_pmem_cfg he
  · exact ⟨(exec_effect hx).pmem_eq, (exec_effect hx).cfg_eq⟩

theorem run_succ_eq_next {n : Nat} {s t : State} :
    Host.Core.run Sys2Proof.core (n + 1) s = .next t ↔
      ∃ u, step s = .next u ∧ Host.Core.run Sys2Proof.core n u = .next t := by
  constructor
  · intro h
    cases hs : step s with
    | next u => exact ⟨u, rfl, (run_succ_of_step n hs).symm.trans h⟩
    | fault e =>
      have hs' : Sys2Proof.core.step s = .fault e := hs
      simp [Host.Core.run, hs'] at h
    | refused e =>
      have hs' : Sys2Proof.core.step s = .refused e := hs
      simp [Host.Core.run, hs'] at h
  · rintro ⟨u, hs, hr⟩
    exact (run_succ_of_step n hs).trans hr

/-- A relation to a later state that every step extends holds along every run. -/
theorem run_of_step {R : State → State → Prop} (refl : ∀ s, R s s)
    (extend : ∀ s u t, step s = .next u → R u t → R s t) {n : Nat} {s t : State}
    (h : Host.Core.run Sys2Proof.core n s = .next t) : R s t := by
  induction n generalizing s with
  | zero =>
    cases h
    exact refl _
  | succ n ih =>
    obtain ⟨u, hs, hr⟩ := run_succ_eq_next.1 h
    exact extend s u t hs (ih hr)

theorem run_pmem_cfg {n : Nat} {s t : State}
    (h : Host.Core.run Sys2Proof.core n s = .next t) : t.pmem = s.pmem ∧ t.cfg = s.cfg := by
  refine run_of_step (R := fun s t => t.pmem = s.pmem ∧ t.cfg = s.cfg) (fun _ => ⟨rfl, rfl⟩) ?_ h
  rintro s u t hs ⟨hm, hc⟩
  obtain ⟨hm', hc'⟩ := step_pmem_cfg hs
  exact ⟨hm.trans hm', hc.trans hc'⟩

end Sys2Proof.Machine
end

section
/-! SUPPORT. Which bytes an instruction leaves, and the two bytes of a word as numbers (20_memory.md
R50, R52, R54). -/

namespace Sys2Proof.Machine

theorem readByte_putWord_ne (s : State) {p c : Word} (v : Word) (h : c ≠ p) (h' : c ≠ p + 1) :
    readByte (s.putWord p v) c = readByte s c :=
  (readByte_put_ne (s.putByte p (lowerByte s.cfg.byteOrder v)) _ h').trans (readByte_put_ne s _ h)

/-- A byte that no store of an instruction reaches is as before. -/
theorem ExecEffect.readByte_eq {i : Instr} {s t : State} (h : ExecEffect i s t) {a : Word}
    (hb : byteStoreAt i s ≠ some a)
    (hw : ∀ b p, wordStoreAt i s = some b → PerformedAt s b p → a ≠ p ∧ a ≠ p + 1) :
    readByte t a = readByte s a := by
  cases h with
  | storesWord b p v _ ha hp | pushes p v _ _ ha hp | calls p v _ _ ha hp =>
    obtain ⟨h1, h2⟩ := hw _ p ha hp
    exact (readByte_congr (by rfl) (by rfl) a).trans (readByte_putWord_ne s v h1 h2)
  | storesByte c b _ ha =>
    have hne : a ≠ c := by
      rintro rfl
      exact hb ha
    exact (readByte_congr (by rfl) (by rfl) a).trans (readByte_put_ne s b hne)
  | logical => exact readByte_congr (by simp) (by simp) a
  | _ => exact readByte_congr rfl rfl a

theorem wordOfBytes_little {lower upper : Byte} {v : Word} (h : WordOfBytes .little lower upper v) :
    lower.toNat = v.toNat % 256 ∧ upper.toNat = v.toNat / 256 := by
  have := lower.isLt
  unfold WordOfBytes at h
  omega

theorem wordOfBytes_big {lower upper : Byte} {v : Word} (h : WordOfBytes .big lower upper v) :
    lower.toNat = v.toNat / 256 ∧ upper.toNat = v.toNat % 256 := by
  have := upper.isLt
  unfold WordOfBytes at h
  omega

/-- What a word store to an even address leaves to be read (R52). -/
theorem writeWord_even {s t : State} {a v : Word} (ha : a.toNat % 2 = 0)
    (h : writeWord s a v = .next t) :
    HoldsWord t a v ∧ t.cfg = s.cfg ∧ ∀ c, c ≠ a → c ≠ a + 1 → readByte t c = readByte s c := by
  obtain ⟨p, hp, hf, rfl⟩ := writeWord_eq_next.1 h
  obtain rfl := (performedAt_of_even ha).1 hp
  exact ⟨(putWord_spec s ha hf).1, rfl, fun _ => readByte_putWord_ne s v⟩

/-- Two byte stores, the second at another address, leave both bytes to be read (R52). -/
theorem writeByte_writeByte {s t u : State} {a b : Word} {x y : Byte} (hne : a ≠ b)
    (ht : writeByte s a x = .next t) (hu : writeByte t b y = .next u) :
    readByte u a = .next x ∧ readByte u b = .next y ∧ u.cfg = s.cfg := by
  obtain ⟨ha, rfl⟩ := writeByte_eq_next.1 ht
  obtain ⟨hb, rfl⟩ := writeByte_eq_next.1 hu
  exact ⟨(readByte_put_ne _ y hne).trans (readByte_put_same s a x ha),
    readByte_put_same _ b y hb, rfl⟩

/-- The word of two bytes is what a word read at their even address assembles (R51). -/
theorem readWord_even {s : State} {a : Word} {lower upper : Byte} (ha : a.toNat % 2 = 0)
    (hl : readByte s a = .next lower) (hu : readByte s (a + 1) = .next upper) :
    ∃ v, readWord s a = .next v ∧ WordOfBytes s.cfg.byteOrder lower upper v :=
  have hv := WordOfBytes_iff.2 rfl
  ⟨_, readWord_eq_next.2 ⟨a, .inl ⟨ha, rfl⟩, lower, upper, hl, hu, hv⟩, hv⟩

end Sys2Proof.Machine
end

section
/-! PROOFS. The statements on 20_memory.md. -/

open Sys2Proof Sys2Proof.Machine

/-- Settles O8: the fetch answers what the decoder reads, and a boundary passed does not touch it. -/
theorem stepRunsDecodedInstruction : Obligations.StepRunsDecodedInstruction := by
  refine fun s => ⟨?_, fun hd => ⟨fun w i hw hi => ?_, fun w k i hw hk hi => ?_⟩,
    passOffer_of_nil, fun _ => passOffer_of_held, fun _ => passOffer_of_behind,
    fun _ => passOffer_of_noOffer⟩
  · rintro (hm | hn)
    · exact interruptDue_none_of_noDelivery hm
    · exact interruptDue_none_of_quiet (noInterrupt_one.1 hn)
  · rw [step_of_notDue hd, fetchInstr_of_decode_one hw hi, andThen_next]
  · rw [step_of_notDue hd, fetchInstr_of_decode_two hw hk hi, andThen_next]

/-- Settles O50: the first access of a word instruction tests its place, and no other access does. -/
theorem misalignedWordAccess : Obligations.MisalignedWordAccess := by
  refine ⟨rfl, fun i s a h ha hm => ?_, fun s a v ha hm => ?_, fun i s hl hs h => ?_,
    fun s h => ?_⟩
  · have hp : wordPlace s a = .refused .misalignedWord := wordPlace_eq_refused.2 ⟨⟨ha, hm⟩, rfl⟩
    obtain h | h := h
    · obtain ⟨f, e⟩ := exec_wordLoad h
      rw [e, readWord_of_place_refused hp, andThen_refused]
    · obtain ⟨v, f, e⟩ := exec_wordStore h
      rw [e, writeWord_of_place_refused hp, andThen_refused]
  · have hp := wordPlace_clearBit0 ha hm
    exact ⟨readWord_congr_place hp, writeWord_congr_place hp⟩
  · exact (exec_refusal h).wordAccess.elim (· hl) (· hs)
  · obtain e | ⟨a, e⟩ := fetchInstr_refused h
    · cases e
    · cases (readProg_eq_refused.1 e).2

/-- Settles O51: the access an instruction makes first is refused, and so is a fetch; with the
default sizes no reason for a refusal is an address out of range. -/
theorem outsideMemoryRefused : Obligations.OutsideMemoryRefused := by
  refine ⟨fun i s a h ha => ?_, fun i s a p h hp hf => ?_, fun i s a p h hp ho => ?_,
    fun s rs rd ha => ?_, fun s hn => ⟨fun ha => ?_, fun w hw hx h2 ha => ?_⟩,
    fun i s hd hp => ⟨fun h => ?_, fun h => ?_⟩⟩
  · obtain h | h := h
    · obtain ⟨f, e⟩ := exec_byteLoad h
      rw [e, readByte_eq_refused.2 ⟨ha, rfl⟩, andThen_refused]
    · obtain ⟨b, f, e⟩ := exec_byteStore h
      rw [e, writeByte_eq_refused.2 ⟨ha, rfl⟩, andThen_refused]
  · obtain ⟨v, f, e⟩ := exec_wordStore h
    rw [e, writeWord_of_not_fits hp hf, andThen_refused]
  · obtain ⟨f, e⟩ := exec_wordLoad h
    rw [e, (readWord_eq_outside hp).2 ho, andThen_refused]
  · simp only [exec, execMov16pr, readProg_eq_refused.2 ⟨ha, rfl⟩, andThen_refused]
  · exact step_of_fetch_refused hn (fetchInstr_of_first_refused (readProg_eq_refused.2 ⟨ha, rfl⟩))
  · exact step_of_fetch_refused hn
      (fetchInstr_of_second_refused hw hx h2 (readProg_eq_refused.2 ⟨ha, rfl⟩))
  · exact ExecRefusal.not_outside hd hp (exec_refusal h)
  · obtain e | ⟨a, e⟩ := fetchInstr_refused h
    · cases e
    · exact not_size_le_toNat a hp (readProg_eq_refused.1 e).1

/-- Settles O53: a word holds its two bytes, and a byte store leaves every other byte. -/
theorem mixedWidths : Obligations.MixedWidths := by
  refine ⟨fun s t a v ha h => ?_, fun s t u a lower upper ha ht hu => ⟨fun c hc => ?_, ?_⟩⟩
  · obtain ⟨⟨lower, upper, hl, hu, hv⟩, hcfg, hframe⟩ := writeWord_even ha h
    rw [hcfg] at hv
    exact ⟨lower, upper, hl, hu, fun ho => wordOfBytes_little (ho ▸ hv),
      fun ho => wordOfBytes_big (ho ▸ hv), hframe⟩
  · obtain ⟨-, rfl⟩ := writeByte_eq_next.1 ht
    exact readByte_put_ne s lower hc
  · have hne : a ≠ a + 1 := by bv_omega
    obtain ⟨hl, hup, hcfg⟩ := writeByte_writeByte hne ht hu
    obtain ⟨v, hr, hv⟩ := readWord_even ha hl hup
    rw [hcfg] at hv
    exact ⟨v, hr, fun ho => by rwa [ho] at hv, fun ho => by rwa [ho] at hv⟩

/-- Settles O56, by the effect of each kind of instruction on data memory. -/
theorem dataMemoryWriters : Obligations.DataMemoryWriters :=
  fun _ _ _ _ h hb hw => (exec_effect h).readByte_eq hb hw

/-- Settles O58, by induction on the steps: no instruction and no interrupt entry writes program
memory or the parameters. -/
theorem programMemoryConstant : Obligations.ProgramMemoryConstant := by
  intro n s t h
  obtain ⟨hm, hc⟩ := run_pmem_cfg h
  exact ⟨hm, hc, readProg_congr hm hc⟩

end

section
/-! SUPPORT. The pattern of a first word (30_encoding.md R82 to R95): every word is of one pattern,
its fields can be read back, and the decoder hands it to that pattern's table. -/

namespace Sys2Proof

/-! ### Reading the fields back -/

theorem Reg.ofBits_field {w : Word} {lo : Nat} {r : Reg}
    (h : w.toNat / 2 ^ lo % 2 ^ 3 = r.toBits.toNat) : Reg.ofBits (field w lo 3) = r := by
  rw [field_eq h, Reg.ofBits_toBits]

theorem encodeT1_fields (op : BitVec 1) (a : BitVec 12) :
    (field (encodeT1 op a) 13 3).toNat = 7 ∧ field (encodeT1 op a) 12 1 = op ∧
      field (encodeT1 op a) 0 12 = a := by
  refine ⟨?_, field_eq ?_, field_eq ?_⟩ <;> simp only [field_toNat, encodeT1_toNat] <;> bv_omega

theorem encodeT2_fields (cc : BitVec 3) (a : BitVec 10) :
    (field (encodeT2 cc a) 13 3).toNat = 6 ∧ field (encodeT2 cc a) 10 3 = cc ∧
      field (encodeT2 cc a) 0 10 = a := by
  refine ⟨?_, field_eq ?_, field_eq ?_⟩ <;> simp only [field_toNat, encodeT2_toNat] <;> bv_omega

/-- The first bit of the opcode is the last of bits 15:13, which the decode tree reads first. -/
theorem encodeT3_fields (op : BitVec 3) (k : BitVec 8) (rd : Reg) :
    (field (encodeT3 op k rd) 13 3).toNat = 4 + op.toNat / 4 ∧
      field (encodeT3 op k rd) 11 3 = op ∧ field (encodeT3 op k rd) 3 8 = k ∧
      rdOf (encodeT3 op k rd) = rd := by
  refine ⟨?_, field_eq ?_, field_eq ?_, Reg.ofBits_field ?_⟩ <;>
    simp only [field_toNat, encodeT3_toNat] <;> bv_omega

/-- The first bit of the opcode is the last of bits 15:13, which the decode tree reads first. -/
theorem encodeT4_fields (op : BitVec 2) (k : BitVec 6) (rs rd : Reg) :
    (field (encodeT4 op k rs rd) 13 3).toNat = 2 + op.toNat / 2 ∧
      field (encodeT4 op k rs rd) 12 2 = op ∧ field (encodeT4 op k rs rd) 6 6 = k ∧
      rsOf (encodeT4 op k rs rd) = rs ∧ rdOf (encodeT4 op k rs rd) = rd := by
  refine ⟨?_, field_eq ?_, field_eq ?_, Reg.ofBits_field ?_, Reg.ofBits_field ?_⟩ <;>
    simp only [field_toNat, encodeT4_toNat] <;> bv_omega

theorem encodeT5_fields (op : BitVec 4) (rn rs rd : Reg) :
    (field (encodeT5 op rn rs rd) 13 3).toNat = 1 ∧ field (encodeT5 op rn rs rd) 9 4 = op ∧
      rnOf (encodeT5 op rn rs rd) = rn ∧ rsOf (encodeT5 op rn rs rd) = rs ∧
      rdOf (encodeT5 op rn rs rd) = rd := by
  refine ⟨?_, field_eq ?_, Reg.ofBits_field ?_, Reg.ofBits_field ?_, Reg.ofBits_field ?_⟩ <;>
    simp only [field_toNat, encodeT5_toNat] <;> bv_omega

/-- The decode tree reads the pattern's 1 and Rn as one field. -/
theorem encodeT6_fields (cc : BitVec 3) (rn rs rd : Reg) :
    (field (encodeT6 cc rn rs rd) 13 3).toNat = 0 ∧
      (field (encodeT6 cc rn rs rd) 6 4).toNat = 8 + rn.toBits.toNat ∧
      field (encodeT6 cc rn rs rd) 10 3 = cc ∧
      rnOf (encodeT6 cc rn rs rd) = rn ∧ rsOf (encodeT6 cc rn rs rd) = rs ∧
      rdOf (encodeT6 cc rn rs rd) = rd := by
  refine ⟨?_, ?_, field_eq ?_, Reg.ofBits_field ?_, Reg.ofBits_field ?_, Reg.ofBits_field ?_⟩ <;>
    simp only [field_toNat, encodeT6_toNat] <;> bv_omega

theorem encodeT7_fields (cc x : BitVec 3) (rd : Reg) :
    (field (encodeT7 cc x rd) 13 3).toNat = 0 ∧ (field (encodeT7 cc x rd) 6 4).toNat = 7 ∧
      field (encodeT7 cc x rd) 10 3 = cc ∧ field (encodeT7 cc x rd) 3 3 = x ∧
      rdOf (encodeT7 cc x rd) = rd := by
  refine ⟨?_, ?_, field_eq ?_, field_eq ?_, Reg.ofBits_field ?_⟩ <;>
    simp only [field_toNat, encodeT7_toNat] <;> bv_omega

theorem encodeT8_fields (op : BitVec 3) (x : BitVec 6) :
    (field (encodeT8 op x) 13 3).toNat = 0 ∧ (field (encodeT8 op x) 6 4).toNat = 6 ∧
      field (encodeT8 op x) 10 3 = op ∧ field (encodeT8 op x) 0 6 = x := by
  refine ⟨?_, ?_, field_eq ?_, field_eq ?_⟩ <;>
    simp only [field_toNat, encodeT8_toNat] <;> bv_omega

theorem encodeT9_fields (op : BitVec 3) (o : BitVec 1) (x : BitVec 3) (rd : Reg) :
    (field (encodeT9 op o x rd) 13 3).toNat = 0 ∧
      (field (encodeT9 op o x rd) 6 4).toNat = 4 + o.toNat ∧
      field (encodeT9 op o x rd) 10 3 = op ∧ field (encodeT9 op o x rd) 3 3 = x ∧
      rdOf (encodeT9 op o x rd) = rd := by
  refine ⟨?_, ?_, field_eq ?_, field_eq ?_, Reg.ofBits_field ?_⟩ <;>
    simp only [field_toNat, encodeT9_toNat] <;> bv_omega

theorem encodeT10_fields (op : BitVec 3) (op2 : BitVec 2) (rs rd : Reg) :
    (field (encodeT10 op op2 rs rd) 13 3).toNat = 0 ∧
      (field (encodeT10 op op2 rs rd) 6 4).toNat = op2.toNat ∧
      field (encodeT10 op op2 rs rd) 10 3 = op ∧ rsOf (encodeT10 op op2 rs rd) = rs ∧
      rdOf (encodeT10 op op2 rs rd) = rd := by
  refine ⟨?_, ?_, field_eq ?_, Reg.ofBits_field ?_, Reg.ofBits_field ?_⟩ <;>
    simp only [field_toNat, encodeT10_toNat] <;> bv_omega

/-! ### The decode tree (R82) -/

section
variable (k : Word)

theorem decode_encodeT1 (op : BitVec 1) (a : BitVec 12) :
    decode (encodeT1 op a) k = decodeT1 (encodeT1 op a) := by
  simp only [decode, encodeT1_fields]

theorem decode_encodeT2 (cc : BitVec 3) (a : BitVec 10) :
    decode (encodeT2 cc a) k = decodeT2 (encodeT2 cc a) := by
  simp only [decode, encodeT2_fields]

theorem decode_encodeT3 (op : BitVec 3) (imm : BitVec 8) (rd : Reg) :
    decode (encodeT3 op imm rd) k = decodeT3 (encodeT3 op imm rd) := by
  have bit : op.toNat / 4 = 0 ∨ op.toNat / 4 = 1 := by omega
  obtain h | h := bit <;> simp only [decode, encodeT3_fields, h]

theorem decode_encodeT4 (op : BitVec 2) (offset : BitVec 6) (rs rd : Reg) :
    decode (encodeT4 op offset rs rd) k = decodeT4 (encodeT4 op offset rs rd) := by
  have bit : op.toNat / 2 = 0 ∨ op.toNat / 2 = 1 := by omega
  obtain h | h := bit <;> simp only [decode, encodeT4_fields, h]

theorem decode_encodeT5 (op : BitVec 4) (rn rs rd : Reg) :
    decode (encodeT5 op rn rs rd) k = decodeT5 (encodeT5 op rn rs rd) := by
  simp only [decode, encodeT5_fields]

theorem decode_encodeT6 (cc : BitVec 3) (rn rs rd : Reg) :
    decode (encodeT6 cc rn rs rd) k = decodeT6 (encodeT6 cc rn rs rd) := by
  simp only [decode, decodeT6to10, encodeT6_fields]
  split
  case h_9 => rfl
  all_goals omega

theorem decode_encodeT7 (cc x : BitVec 3) (rd : Reg) :
    decode (encodeT7 cc x rd) k = decodeT7 (encodeT7 cc x rd) := by
  simp only [decode, decodeT6to10, encodeT7_fields]

theorem decode_encodeT8 (op : BitVec 3) (x : BitVec 6) :
    decode (encodeT8 op x) k = decodeT8 (encodeT8 op x) k := by
  simp only [decode, decodeT6to10, encodeT8_fields]

theorem decode_encodeT9_one (op x : BitVec 3) (rd : Reg) :
    decode (encodeT9 op 0 x rd) k = decodeT9one (encodeT9 op 0 x rd) := by
  simp only [decode, decodeT6to10, encodeT9_fields]
  rfl

theorem decode_encodeT9_two (op x : BitVec 3) (rd : Reg) :
    decode (encodeT9 op 1 x rd) k = decodeT9two (encodeT9 op 1 x rd) k := by
  simp only [decode, decodeT6to10, encodeT9_fields]
  rfl

theorem decode_encodeT10_move (op : BitVec 3) (rs rd : Reg) :
    decode (encodeT10 op 0 rs rd) k = decodeT10move (encodeT10 op 0 rs rd) := by
  simp only [decode, decodeT6to10, encodeT10_fields]
  rfl

theorem decode_encodeT10_alu (op : BitVec 3) (rs rd : Reg) :
    decode (encodeT10 op 1 rs rd) k = decodeT10alu (encodeT10 op 1 rs rd) := by
  simp only [decode, decodeT6to10, encodeT10_fields]
  rfl

theorem decode_encodeT10_offset (op : BitVec 3) (rs rd : Reg) :
    decode (encodeT10 op 2 rs rd) k = decodeT10offset (encodeT10 op 2 rs rd) k := by
  simp only [decode, decodeT6to10, encodeT10_fields]
  rfl

theorem decode_encodeT10_reserved (op : BitVec 3) (rs rd : Reg) :
    decode (encodeT10 op 3 rs rd) k = .reservedT10_xxx_11 op rs rd := by
  simp only [decode, decodeT6to10, encodeT10_fields]
  rfl

end

/-! ### Every word is of one pattern (R82) -/

/-- The patterns of a first word, one for each table of the decoder: T9 by `o`, T10 by `op2`. -/
inductive WordPattern : Word → Prop
  | t1 (op : BitVec 1) (a : BitVec 12) : WordPattern (encodeT1 op a)
  | t2 (cc : BitVec 3) (a : BitVec 10) : WordPattern (encodeT2 cc a)
  | t3 (op : BitVec 3) (imm : BitVec 8) (rd : Reg) : WordPattern (encodeT3 op imm rd)
  | t4 (op : BitVec 2) (offset : BitVec 6) (rs rd : Reg) : WordPattern (encodeT4 op offset rs rd)
  | t5 (op : BitVec 4) (rn rs rd : Reg) : WordPattern (encodeT5 op rn rs rd)
  | t6 (cc : BitVec 3) (rn rs rd : Reg) : WordPattern (encodeT6 cc rn rs rd)
  | t7 (cc x : BitVec 3) (rd : Reg) : WordPattern (encodeT7 cc x rd)
  | t8 (op : BitVec 3) (x : BitVec 6) : WordPattern (encodeT8 op x)
  | t9one (op x : BitVec 3) (rd : Reg) : WordPattern (encodeT9 op 0 x rd)
  | t9two (op x : BitVec 3) (rd : Reg) : WordPattern (encodeT9 op 1 x rd)
  | t10move (op : BitVec 3) (rs rd : Reg) : WordPattern (encodeT10 op 0 rs rd)
  | t10alu (op : BitVec 3) (rs rd : Reg) : WordPattern (encodeT10 op 1 rs rd)
  | t10offset (op : BitVec 3) (rs rd : Reg) : WordPattern (encodeT10 op 2 rs rd)
  | t10reserved (op : BitVec 3) (rs rd : Reg) : WordPattern (encodeT10 op 3 rs rd)

/-- A word equal in number to one of a pattern is of that pattern. -/
theorem WordPattern.of_toNat_eq {w v : Word} (hv : WordPattern v) (h : w.toNat = v.toNat) :
    WordPattern w :=
  BitVec.eq_of_toNat_eq h ▸ hv

theorem rdOf_toNat (w : Word) : (rdOf w).toBits.toNat = w.toNat % 8 := by
  simp [rdOf, field_toNat]

theorem rsOf_toNat (w : Word) : (rsOf w).toBits.toNat = w.toNat / 8 % 8 := by
  simp [rsOf, field_toNat]

theorem rnOf_toNat (w : Word) : (rnOf w).toBits.toNat = w.toNat / 64 % 8 := by
  simp [rnOf, field_toNat]

theorem encodeT9_of_bits {w : Word} (o : BitVec 1) (h : w.toNat / 8192 = 0)
    (hb : w.toNat / 64 % 16 = 4 + o.toNat) :
    encodeT9 (field w 10 3) o (field w 3 3) (rdOf w) = w := by
  apply BitVec.eq_of_toNat_eq
  simp only [encodeT9_toNat, field_toNat, rdOf_toNat]
  omega

theorem encodeT10_of_bits {w : Word} (op2 : BitVec 2) (h : w.toNat / 8192 = 0)
    (hb : w.toNat / 64 % 16 = op2.toNat) :
    encodeT10 (field w 10 3) op2 (rsOf w) (rdOf w) = w := by
  apply BitVec.eq_of_toNat_eq
  simp only [encodeT10_toNat, field_toNat, rdOf_toNat, rsOf_toNat]
  omega

/-- Where bits 15:13 are `000`, bits 9:6 tell the pattern (R82). -/
theorem wordPattern_of_bits_000 {w : Word} (h : w.toNat / 8192 = 0) : WordPattern w := by
  have bits : w.toNat / 64 % 16 < 8 ∨ 8 ≤ w.toNat / 64 % 16 := by omega
  obtain hlow | hhigh := bits
  · interval_cases hb : w.toNat / 64 % 16
    · exact encodeT10_of_bits 0 h hb ▸ .t10move _ _ _
    · exact encodeT10_of_bits 1 h hb ▸ .t10alu _ _ _
    · exact encodeT10_of_bits 2 h hb ▸ .t10offset _ _ _
    · exact encodeT10_of_bits 3 h hb ▸ .t10reserved _ _ _
    · exact encodeT9_of_bits 0 h hb ▸ .t9one _ _ _
    · exact encodeT9_of_bits 1 h hb ▸ .t9two _ _ _
    · refine .of_toNat_eq (.t8 (field w 10 3) (field w 0 6)) ?_
      simp only [encodeT8_toNat, field_toNat]
      omega
    · refine .of_toNat_eq (.t7 (field w 10 3) (field w 3 3) (rdOf w)) ?_
      simp only [encodeT7_toNat, field_toNat, rdOf_toNat]
      omega
  · refine .of_toNat_eq (.t6 (field w 10 3) (rnOf w) (rsOf w) (rdOf w)) ?_
    simp only [encodeT6_toNat, field_toNat, rdOf_toNat, rsOf_toNat, rnOf_toNat]
    omega

theorem wordPattern (w : Word) : WordPattern w := by
  have bits : w.toNat / 8192 = 0 ∨ w.toNat / 8192 = 1 ∨ w.toNat / 16384 = 1 ∨
      w.toNat / 16384 = 2 ∨ w.toNat / 8192 = 6 ∨ w.toNat / 8192 = 7 := by omega
  obtain h | h | h | h | h | h := bits
  · exact wordPattern_of_bits_000 h
  · refine .of_toNat_eq (.t5 (field w 9 4) (rnOf w) (rsOf w) (rdOf w)) ?_
    simp only [encodeT5_toNat, field_toNat, rdOf_toNat, rsOf_toNat, rnOf_toNat]
    omega
  · refine .of_toNat_eq (.t4 (field w 12 2) (field w 6 6) (rsOf w) (rdOf w)) ?_
    simp only [encodeT4_toNat, field_toNat, rdOf_toNat, rsOf_toNat]
    omega
  · refine .of_toNat_eq (.t3 (field w 11 3) (field w 3 8) (rdOf w)) ?_
    simp only [encodeT3_toNat, field_toNat, rdOf_toNat]
    omega
  · refine .of_toNat_eq (.t2 (field w 10 3) (field w 0 10)) ?_
    simp only [encodeT2_toNat, field_toNat]
    omega
  · refine .of_toNat_eq (.t1 (field w 12 1) (field w 0 12)) ?_
    simp only [encodeT1_toNat, field_toNat]
    omega

end Sys2Proof
end

section
/-! SUPPORT. The decoder's tables and the encoder are inverse to each other (30_encoding.md R82,
R103), and the second word enters an instruction as an operand alone (R81, R96). -/

namespace Sys2Proof

/-! ### The second word of an instruction (R81, R96) -/

/-- The second word of an instruction's encoding, where it has one. -/
def Instr.secondWord : Instr → Option Word
  | .calladr _ k => some k
  | .movKr _ _ k => some k
  | .mov16ar _ _ k => some k
  | .mov8zar _ _ k => some k
  | .mov8sar _ _ k => some k
  | .mov16ra _ _ k => some k
  | .mov8ra _ _ k => some k
  | .movMr _ _ k => some k
  | .mov16Mr _ _ k => some k
  | .mov8zMr _ _ k => some k
  | .mov8sMr _ _ k => some k
  | .mov16rM _ _ k => some k
  | .mov8rM _ _ k => some k
  | _ => none

/-- The instruction with another second word, where it has one. -/
def Instr.withSecondWord (i : Instr) (k : Word) : Instr :=
  match i with
  | .calladr x _ => .calladr x k
  | .movKr x rd _ => .movKr x rd k
  | .mov16ar x rd _ => .mov16ar x rd k
  | .mov8zar x rd _ => .mov8zar x rd k
  | .mov8sar x rd _ => .mov8sar x rd k
  | .mov16ra x rd _ => .mov16ra x rd k
  | .mov8ra x rd _ => .mov8ra x rd k
  | .movMr rs rd _ => .movMr rs rd k
  | .mov16Mr rs rd _ => .mov16Mr rs rd k
  | .mov8zMr rs rd _ => .mov8zMr rs rd k
  | .mov8sMr rs rd _ => .mov8sMr rs rd k
  | .mov16rM rs rd _ => .mov16rM rs rd k
  | .mov8rM rs rd _ => .mov8rM rs rd k
  | i => i

section
variable (i : Instr) (k : Word)

theorem Instr.withSecondWord_mnemonic : (i.withSecondWord k).mnemonic = i.mnemonic := by
  cases i <;> rfl

theorem Instr.withSecondWord_xBits : (i.withSecondWord k).xBits = i.xBits := by
  cases i <;> rfl

theorem Instr.withSecondWord_secondWord :
    (i.withSecondWord k).secondWord = i.secondWord.map fun _ => k := by
  cases i <;> rfl

theorem Instr.withSecondWord_wellFormed (strict : Bool) :
    (i.withSecondWord k).wellFormed strict = i.wellFormed strict := by
  simp only [Instr.wellFormed, Instr.withSecondWord_xBits]

end

theorem Instr.withSecondWord_of_none {i : Instr} (h : i.secondWord = none) (k : Word) :
    i.withSecondWord k = i := by
  cases i with
  | calladr | movKr | mov16ar | mov8zar | mov8sar | mov16ra | mov8ra
  | movMr | mov16Mr | mov8zMr | mov8sMr | mov16rM | mov8rM => cases h
  | _ => rfl

theorem Instr.withSecondWord_of_some {i : Instr} {k : Word} (h : i.secondWord = some k) :
    i.withSecondWord k = i := by
  cases i <;> cases h <;> rfl

/-- The instructions with a second word are the 13 of R81's list. -/
theorem Instr.secondWord_isSome (i : Instr) :
    i.secondWord.isSome = Laws.EncodingLength.twoWordNames.contains i.mnemonic := by
  cases i <;> rfl

theorem twoWords_eq_isSome (w : Word) : twoWords w = (decode w 0).secondWord.isSome := by
  unfold twoWords
  cases decode w 0 <;> rfl

/-! ### What the encoder writes for what a table decoded -/

/-- The words of an instruction are this first word and its second word, where it has one. -/
def EncodesAs (i : Instr) (w : Word) : Prop := encode i = w :: i.secondWord.toList

section
variable (w k : Word)

theorem encodesAs_decodeT1 :
    EncodesAs (decodeT1 w) (encodeT1 (field w 12 1) (field w 0 12)) := by
  unfold decodeT1
  obtain ⟨⟨op, hop⟩⟩ := field w 12 1
  interval_cases op <;> rfl

theorem encodesAs_decodeT2 :
    EncodesAs (decodeT2 w) (encodeT2 (field w 10 3) (field w 0 10)) := by
  unfold decodeT2
  obtain ⟨⟨op, hop⟩⟩ := field w 10 3
  interval_cases op <;> rfl

theorem encodesAs_decodeT3 :
    EncodesAs (decodeT3 w) (encodeT3 (field w 11 3) (field w 3 8) (rdOf w)) := by
  unfold decodeT3
  obtain ⟨⟨op, hop⟩⟩ := field w 11 3
  interval_cases op <;> rfl

theorem encodesAs_decodeT4 :
    EncodesAs (decodeT4 w) (encodeT4 (field w 12 2) (field w 6 6) (rsOf w) (rdOf w)) := by
  unfold decodeT4
  obtain ⟨⟨op, hop⟩⟩ := field w 12 2
  interval_cases op <;> rfl

theorem encodesAs_decodeT5 :
    EncodesAs (decodeT5 w) (encodeT5 (field w 9 4) (rnOf w) (rsOf w) (rdOf w)) := by
  unfold decodeT5
  obtain ⟨⟨op, hop⟩⟩ := field w 9 4
  interval_cases op <;> rfl

theorem encodesAs_decodeT6 :
    EncodesAs (decodeT6 w) (encodeT6 (field w 10 3) (rnOf w) (rsOf w) (rdOf w)) := by
  unfold decodeT6
  obtain ⟨⟨op, hop⟩⟩ := field w 10 3
  interval_cases op <;> rfl

theorem encodesAs_decodeT7 :
    EncodesAs (decodeT7 w) (encodeT7 (field w 10 3) (field w 3 3) (rdOf w)) := by
  unfold decodeT7
  obtain ⟨⟨op, hop⟩⟩ := field w 10 3
  interval_cases op <;> rfl

theorem encodesAs_decodeT8 :
    EncodesAs (decodeT8 w k) (encodeT8 (field w 10 3) (field w 0 6)) := by
  unfold decodeT8
  obtain ⟨⟨op, hop⟩⟩ := field w 10 3
  interval_cases op <;> rfl

theorem encodesAs_decodeT9one :
    EncodesAs (decodeT9one w) (encodeT9 (field w 10 3) 0 (field w 3 3) (rdOf w)) := by
  unfold decodeT9one
  obtain ⟨⟨op, hop⟩⟩ := field w 10 3
  interval_cases op <;> rfl

theorem encodesAs_decodeT9two :
    EncodesAs (decodeT9two w k) (encodeT9 (field w 10 3) 1 (field w 3 3) (rdOf w)) := by
  unfold decodeT9two
  obtain ⟨⟨op, hop⟩⟩ := field w 10 3
  interval_cases op <;> rfl

theorem encodesAs_decodeT10move :
    EncodesAs (decodeT10move w) (encodeT10 (field w 10 3) 0 (rsOf w) (rdOf w)) := by
  unfold decodeT10move
  obtain ⟨⟨op, hop⟩⟩ := field w 10 3
  interval_cases op <;> rfl

theorem encodesAs_decodeT10alu :
    EncodesAs (decodeT10alu w) (encodeT10 (field w 10 3) 1 (rsOf w) (rdOf w)) := by
  unfold decodeT10alu
  obtain ⟨⟨op, hop⟩⟩ := field w 10 3
  interval_cases op <;> rfl

theorem encodesAs_decodeT10offset :
    EncodesAs (decodeT10offset w k) (encodeT10 (field w 10 3) 2 (rsOf w) (rdOf w)) := by
  unfold decodeT10offset
  obtain ⟨⟨op, hop⟩⟩ := field w 10 3
  interval_cases op <;> rfl

/-- The encoder writes the word that was decoded: no bit of it is dropped (R103). -/
theorem encodesAs_decode : EncodesAs (decode w k) w := by
  cases wordPattern w with
  | t1 op a =>
    rw [decode_encodeT1]
    simpa only [encodeT1_fields] using encodesAs_decodeT1 (encodeT1 op a)
  | t2 cc a =>
    rw [decode_encodeT2]
    simpa only [encodeT2_fields] using encodesAs_decodeT2 (encodeT2 cc a)
  | t3 op imm rd =>
    rw [decode_encodeT3]
    simpa only [encodeT3_fields] using encodesAs_decodeT3 (encodeT3 op imm rd)
  | t4 op offset rs rd =>
    rw [decode_encodeT4]
    simpa only [encodeT4_fields] using encodesAs_decodeT4 (encodeT4 op offset rs rd)
  | t5 op rn rs rd =>
    rw [decode_encodeT5]
    simpa only [encodeT5_fields] using encodesAs_decodeT5 (encodeT5 op rn rs rd)
  | t6 cc rn rs rd =>
    rw [decode_encodeT6]
    simpa only [encodeT6_fields] using encodesAs_decodeT6 (encodeT6 cc rn rs rd)
  | t7 cc x rd =>
    rw [decode_encodeT7]
    simpa only [encodeT7_fields] using encodesAs_decodeT7 (encodeT7 cc x rd)
  | t8 op x =>
    rw [decode_encodeT8]
    simpa only [encodeT8_fields] using encodesAs_decodeT8 (encodeT8 op x) k
  | t9one op x rd =>
    rw [decode_encodeT9_one]
    simpa only [encodeT9_fields] using encodesAs_decodeT9one (encodeT9 op 0 x rd)
  | t9two op x rd =>
    rw [decode_encodeT9_two]
    simpa only [encodeT9_fields] using encodesAs_decodeT9two (encodeT9 op 1 x rd) k
  | t10move op rs rd =>
    rw [decode_encodeT10_move]
    simpa only [encodeT10_fields] using encodesAs_decodeT10move (encodeT10 op 0 rs rd)
  | t10alu op rs rd =>
    rw [decode_encodeT10_alu]
    simpa only [encodeT10_fields] using encodesAs_decodeT10alu (encodeT10 op 1 rs rd)
  | t10offset op rs rd =>
    rw [decode_encodeT10_offset]
    simpa only [encodeT10_fields] using encodesAs_decodeT10offset (encodeT10 op 2 rs rd) k
  | t10reserved op rs rd =>
    rw [decode_encodeT10_reserved]
    rfl

end

/-! ### What the decoder reads from the words of an instruction -/

/-- The first word of an instruction, with whatever second word, decodes to that instruction with
the second word for its operand (R81, R103). -/
theorem exists_firstWord (i : Instr) :
    ∃ w, EncodesAs i w ∧ ∀ k, decode w k = i.withSecondWord k := by
  cases i with
  | jmprel | callrel =>
    exact ⟨_, rfl, fun k => (decode_encodeT1 k _ _).trans
      (by simp [decodeT1, encodeT1_fields, Instr.withSecondWord])⟩
  | breq | brne | bruge | brult | brlt | brge | brugt | brgt =>
    exact ⟨_, rfl, fun k => (decode_encodeT2 k _ _).trans
      (by simp [decodeT2, encodeT2_fields, Instr.withSecondWord])⟩
  | movkr | cmpkr | addkr | subkr | andkr | orkr | xorkr | reservedT3_111 =>
    exact ⟨_, rfl, fun k => (decode_encodeT3 k _ _ _).trans
      (by simp [decodeT3, encodeT3_fields, Instr.withSecondWord])⟩
  | mov16mr | movs8mr | mov16rm | mov8rm =>
    exact ⟨_, rfl, fun k => (decode_encodeT4 k _ _ _ _).trans
      (by simp [decodeT4, encodeT4_fields, Instr.withSecondWord])⟩
  | addrrr | adcrrr | subrrr | subcrrr | orrrr | andrrr | xorrrr | mov16nr | mov8znr | mov8snr
  | mov16rn | mov8rn | reservedT5_0111 | reservedT5_1000 | reservedT5_1110 | reservedT5_1111 =>
    exact ⟨_, rfl, fun k => (decode_encodeT5 k _ _ _ _).trans
      (by simp [decodeT5, encodeT5_fields, Instr.withSecondWord])⟩
  | seleq | selne | seluge | selult | sellt | selge | selugt | selgt =>
    exact ⟨_, rfl, fun k => (decode_encodeT6 k _ _ _ _).trans
      (by simp [decodeT6, encodeT6_fields, Instr.withSecondWord])⟩
  | seteq | setne | setuge | setult | setlt | setge | setugt | setgt =>
    exact ⟨_, rfl, fun k => (decode_encodeT7 k _ _ _).trans
      (by simp [decodeT7, encodeT7_fields, Instr.withSecondWord])⟩
  | ret | reti | dint | eint | calladr | reservedT8_100 | reservedT8_101 | reservedT8_110 =>
    exact ⟨_, rfl, fun k => (decode_encodeT8 k _ _).trans
      (by simp [decodeT8, encodeT8_fields, Instr.withSecondWord])⟩
  | jmpreg | callreg | push | pop | movSr | movrS | reservedT9_100_0 | reservedT9_101_0 =>
    exact ⟨_, rfl, fun k => (decode_encodeT9_one k _ _ _).trans
      (by simp [decodeT9one, encodeT9_fields, Instr.withSecondWord])⟩
  | movKr | mov16ar | mov8zar | mov8sar | mov16ra | mov8ra | reservedT9_110_1
  | reservedT9_111_1 =>
    exact ⟨_, rfl, fun k => (decode_encodeT9_two k _ _ _).trans
      (by simp [decodeT9two, encodeT9_fields, Instr.withSecondWord])⟩
  | movrr | cmprr | zext | sext | bswap | sextw | mov16pr | reservedT10_110_00 =>
    exact ⟨_, rfl, fun k => (decode_encodeT10_move k _ _ _).trans
      (by simp [decodeT10move, encodeT10_fields, Instr.withSecondWord])⟩
  | lsr | lsl | asr | neg | notrr | reservedT10_011_01 | reservedT10_100_01
  | reservedT10_111_01 =>
    exact ⟨_, rfl, fun k => (decode_encodeT10_alu k _ _ _).trans
      (by simp [decodeT10alu, encodeT10_fields, Instr.withSecondWord])⟩
  | movMr | mov16Mr | mov8zMr | mov8sMr | mov16rM | mov8rM | reservedT10_110_10
  | reservedT10_111_10 =>
    exact ⟨_, rfl, fun k => (decode_encodeT10_offset k _ _ _).trans
      (by simp [decodeT10offset, encodeT10_fields, Instr.withSecondWord])⟩
  | reservedT10_xxx_11 =>
    exact ⟨_, rfl, fun k => decode_encodeT10_reserved k _ _ _⟩

/-- Another second word changes the operand and nothing else (R81). -/
theorem decode_eq_withSecondWord (w k : Word) : decode w k = (decode w 0).withSecondWord k := by
  obtain ⟨v, hv, hd⟩ := exists_firstWord (decode w 0)
  obtain ⟨rfl, -⟩ := List.cons.inj ((encodesAs_decode w 0).symm.trans hv)
  exact hd k

end Sys2Proof
end

section
/-! SUPPORT. Decoding a list of words: the first word alone tells the length, and the x bits are
tested before a second word is asked for (30_encoding.md R81, R101). -/

namespace Sys2Proof

/-- Each instruction has the number of words that its name's place in R81's list says. -/
theorem Instr.length_eq (i : Instr) : Laws.EncodingLength.Statement i := by
  cases i <;> exact Laws.EncodingLength.of_name _ rfl rfl

theorem decode_mnemonic (w k : Word) : (decode w k).mnemonic = (decode w 0).mnemonic := by
  rw [decode_eq_withSecondWord, Instr.withSecondWord_mnemonic]

theorem decode_wellFormed (w k : Word) (strict : Bool) :
    (decode w k).wellFormed strict = (decode w 0).wellFormed strict := by
  rw [decode_eq_withSecondWord, Instr.withSecondWord_wellFormed]

/-- A first word takes a second one where its name is in R81's list. -/
theorem twoWords_eq_contains (w k : Word) :
    twoWords w = Laws.EncodingLength.twoWordNames.contains (decode w k).mnemonic := by
  rw [twoWords_eq_isSome, Instr.secondWord_isSome, decode_mnemonic w k]

theorem decode_length (w k : Word) : (decode w k).length = if twoWords w then 2 else 1 := by
  rw [twoWords_eq_contains w k]
  exact (decode w k).length_eq

/-- The second word of what is decoded is the one that was read, where the first word takes one. -/
theorem decode_secondWord (w k : Word) :
    (decode w k).secondWord = if twoWords w then some k else none := by
  rw [decode_eq_withSecondWord, Instr.withSecondWord_secondWord, twoWords_eq_isSome]
  cases (decode w 0).secondWord <;> rfl

theorem encode_decode_of_one {w : Word} (h : twoWords w = false) (k : Word) :
    encode (decode w k) = [w] := by
  rw [encodesAs_decode w k, decode_secondWord, h]
  rfl

theorem encode_decode_of_two {w : Word} (h : twoWords w = true) (k : Word) :
    encode (decode w k) = [w, k] := by
  rw [encodesAs_decode w k, decode_secondWord, h]
  rfl

/-! ### Lists of words -/

theorem decodeWords_of_one {strict : Bool} {w : Word} (hx : (decode w 0).wellFormed strict = true)
    (h : twoWords w = false) (rest : List Word) :
    decodeWords strict (w :: rest) = .ok (decode w 0, rest) := by
  simp only [decodeWords, hx, h, if_true, Bool.false_eq_true, if_false]

theorem decodeWords_of_two {strict : Bool} {w : Word} (hx : (decode w 0).wellFormed strict = true)
    (h : twoWords w = true) (k : Word) (rest : List Word) :
    decodeWords strict (w :: k :: rest) = .ok (decode w k, rest) := by
  simp only [decodeWords, hx, h, if_true]

theorem decodeWords_of_xBits {strict : Bool} {w : Word}
    (hx : (decode w 0).wellFormed strict = false) (rest : List Word) :
    decodeWords strict (w :: rest) = .error .nonzeroXBits := by
  simp only [decodeWords, hx, Bool.false_eq_true, if_false]

/-- What the decoder accepts is a first word with well-formed x bits and the second word, where the
first takes one. -/
theorem decodeWords_eq_ok {strict : Bool} {ws rest : List Word} {i : Instr}
    (h : decodeWords strict ws = .ok (i, rest)) :
    ∃ w, (decode w 0).wellFormed strict = true ∧
      ((twoWords w = false ∧ ws = w :: rest ∧ i = decode w 0) ∨
        (twoWords w = true ∧ ∃ k, ws = w :: k :: rest ∧ i = decode w k)) := by
  cases ws with
  | nil => cases h
  | cons w ws =>
    cases hx : (decode w 0).wellFormed strict with
    | false =>
      rw [decodeWords_of_xBits hx] at h
      cases h
    | true =>
      refine ⟨w, hx, ?_⟩
      cases h2 : twoWords w with
      | false =>
        rw [decodeWords_of_one hx h2] at h
        cases h
        exact .inl ⟨rfl, rfl, rfl⟩
      | true =>
        cases ws with
        | nil =>
          simp only [decodeWords, hx, h2, if_true] at h
          cases h
        | cons k ws =>
          rw [decodeWords_of_two hx h2] at h
          cases h
          exact .inr ⟨rfl, k, rfl, rfl⟩

theorem exists_decodeWords_ok {strict : Bool} {w : Word}
    (hx : (decode w 0).wellFormed strict = true) (k : Word) (rest : List Word) :
    ∃ r, decodeWords strict (w :: k :: rest) = .ok r := by
  cases h : twoWords w with
  | false => exact ⟨_, decodeWords_of_one hx h (k :: rest)⟩
  | true => exact ⟨_, decodeWords_of_two hx h k rest⟩

end Sys2Proof
end

section
/-! SUPPORT. The 6-bit offset field of T4 (30_encoding.md R92). -/

namespace Sys2Proof.Machine

/-- The field that means an offset. -/
def t4Field (d : T4Decode) (k : Int) : BitVec 6 :=
  match d with
  | .signfill => BitVec.ofInt 6 k
  | .excess16 => BitVec.ofInt 6 (k + 16)
  | .signedPlus16 => BitVec.ofInt 6 (k - 16)

theorem t4Offset_t4Field (d : T4Decode) {k : Int} (hl : -16 ≤ k) (hu : k ≤ 47) :
    t4Offset d (t4Field d k) = k := by
  cases d with
  | signfill =>
    simp only [t4Offset, t4Field, BitVec.toNat_ofInt]
    split <;> omega
  | excess16 =>
    simp only [t4Offset, t4Field, BitVec.toNat_ofInt]
    omega
  | signedPlus16 =>
    simp only [t4Offset, t4Field, BitVec.toInt_ofInt, Int.bmod_def]
    split <;> omega

theorem t4Field_t4Offset (d : T4Decode) (f : BitVec 6) : t4Field d (t4Offset d f) = f := by
  have hf := f.isLt
  apply BitVec.eq_of_toNat_eq
  cases d with
  | signfill =>
    simp only [t4Offset, t4Field, BitVec.toNat_ofInt]
    split <;> omega
  | excess16 =>
    simp only [t4Offset, t4Field, BitVec.toNat_ofInt]
    omega
  | signedPlus16 =>
    have hs := BitVec.toInt_eq_toNat_cond f
    simp only [t4Offset, t4Field, BitVec.toNat_ofInt]
    split at hs <;> omega

theorem eaImm_toNat (s : State) (rs : Reg) (f : BitVec 6) :
    ((eaImm s rs f).toNat : Int) = ((s.get rs).toNat + t4Offset s.cfg.t4Decode f) % 65536 := by
  simp only [eaImm, BitVec.toNat_add, BitVec.toNat_ofInt]
  omega

end Sys2Proof.Machine
end

section
/-! SUPPORT. The opcode map against the decoder's tables (30_encoding.md R100, R103): what a word
decodes to has a row that the word matches, and no word matches two rows. -/

namespace Sys2Proof

/-! ### Masks -/

/-- The bits of a number under the mask of a field. -/
theorem land_field (n lo len : Nat) :
    n &&& (2 ^ len - 1) * 2 ^ lo = n / 2 ^ lo % 2 ^ len * 2 ^ lo := by
  have hdiv : (n &&& (2 ^ len - 1) * 2 ^ lo) / 2 ^ lo = n / 2 ^ lo % 2 ^ len := by
    rw [Nat.and_div_two_pow, Nat.mul_div_cancel _ (Nat.two_pow_pos lo),
      Nat.and_two_pow_sub_one_eq_mod]
  have hmod : (n &&& (2 ^ len - 1) * 2 ^ lo) % 2 ^ lo = 0 := by
    rw [Nat.and_mod_two_pow, Nat.mul_mod_left, Nat.and_zero]
  rw [← hdiv, Nat.div_mul_cancel (Nat.dvd_of_mod_eq_zero hmod)]

/-- The mask of the reserved rows of T10 with `op2` = 11 has two fields: bits 15:13 and 9:6. -/
theorem land_two_fields (n : Nat) :
    n &&& 0xE3C0 = n / 8192 % 8 * 8192 + n / 64 % 16 * 64 := by
  have hdiv : (n &&& 0xE3C0) / 2 ^ 13 = n / 2 ^ 13 % 2 ^ 3 := by
    rw [Nat.and_div_two_pow]
    exact Nat.and_two_pow_sub_one_eq_mod _ 3
  have hmod : (n &&& 0xE3C0) % 2 ^ 13 = n % 2 ^ 13 / 2 ^ 6 % 2 ^ 4 * 2 ^ 6 := by
    rw [Nat.and_mod_two_pow]
    exact land_field _ 6 4
  omega

/-! ### The row of what a table decodes -/

/-- The map has a row of the instruction's name and number of words that the word matches. -/
def HasRow (i : Instr) (w : Word) : Prop :=
  ∃ row ∈ opcodeMap, row.name = i.mnemonic ∧ row.words = i.length ∧ row.matches w = true

/-- A row whose mask is that of the field of `len` bits from bit `lo` up. -/
theorem HasRow.of_field {i : Instr} {w : Word} {value : Nat} (lo len : Nat)
    (hrow : ⟨i.mnemonic, value, (2 ^ len - 1) * 2 ^ lo, i.length⟩ ∈ opcodeMap)
    (hw : w.toNat / 2 ^ lo % 2 ^ len * 2 ^ lo = value) : HasRow i w :=
  ⟨_, hrow, rfl, rfl, beq_iff_eq.2 ((land_field _ lo len).trans hw)⟩

/-- The row of an instruction of a table: its value is the table's `base` and `op` times the weight
`unit` of the opcode field. -/
def tableRow (i : Instr) (base op unit mask : Nat) : OpcodeRow :=
  ⟨i.mnemonic, base + op * unit, mask, i.length⟩

/-- The rows stand in the order of the constructors. -/
theorem tableRow_mem {i : Instr} {base op unit mask : Nat}
    (h : opcodeMap[i.ctorIdx]? = some (tableRow i base op unit mask)) :
    tableRow i base op unit mask ∈ opcodeMap :=
  List.mem_of_getElem? h

section
variable (w k : Word)

theorem decodeT1_row :
    tableRow (decodeT1 w) 0xE000 (field w 12 1).toNat 4096 0xF000 ∈ opcodeMap := by
  apply tableRow_mem
  unfold decodeT1
  obtain ⟨⟨op, hop⟩⟩ := field w 12 1
  interval_cases op <;> simp only [tableRow, BitVec.toNat_ofFin] <;> rfl

theorem decodeT2_row :
    tableRow (decodeT2 w) 0xC000 (field w 10 3).toNat 1024 0xFC00 ∈ opcodeMap := by
  apply tableRow_mem
  unfold decodeT2
  obtain ⟨⟨op, hop⟩⟩ := field w 10 3
  interval_cases op <;> simp only [tableRow, BitVec.toNat_ofFin] <;> rfl

theorem decodeT3_row :
    tableRow (decodeT3 w) 0x8000 (field w 11 3).toNat 2048 0xF800 ∈ opcodeMap := by
  apply tableRow_mem
  unfold decodeT3
  obtain ⟨⟨op, hop⟩⟩ := field w 11 3
  interval_cases op <;> simp only [tableRow, BitVec.toNat_ofFin] <;> rfl

theorem decodeT4_row :
    tableRow (decodeT4 w) 0x4000 (field w 12 2).toNat 4096 0xF000 ∈ opcodeMap := by
  apply tableRow_mem
  unfold decodeT4
  obtain ⟨⟨op, hop⟩⟩ := field w 12 2
  interval_cases op <;> simp only [tableRow, BitVec.toNat_ofFin] <;> rfl

theorem decodeT5_row :
    tableRow (decodeT5 w) 0x2000 (field w 9 4).toNat 512 0xFE00 ∈ opcodeMap := by
  apply tableRow_mem
  unfold decodeT5
  obtain ⟨⟨op, hop⟩⟩ := field w 9 4
  interval_cases op <;> simp only [tableRow, BitVec.toNat_ofFin] <;> rfl

theorem decodeT6_row :
    tableRow (decodeT6 w) 0x0200 (field w 10 3).toNat 1024 0xFE00 ∈ opcodeMap := by
  apply tableRow_mem
  unfold decodeT6
  obtain ⟨⟨op, hop⟩⟩ := field w 10 3
  interval_cases op <;> simp only [tableRow, BitVec.toNat_ofFin] <;> rfl

theorem decodeT7_row :
    tableRow (decodeT7 w) 0x01C0 (field w 10 3).toNat 1024 0xFFC0 ∈ opcodeMap := by
  apply tableRow_mem
  unfold decodeT7
  obtain ⟨⟨op, hop⟩⟩ := field w 10 3
  interval_cases op <;> simp only [tableRow, BitVec.toNat_ofFin] <;> rfl

theorem decodeT8_row :
    tableRow (decodeT8 w k) 0x0180 (field w 10 3).toNat 1024 0xFFC0 ∈ opcodeMap := by
  apply tableRow_mem
  unfold decodeT8
  obtain ⟨⟨op, hop⟩⟩ := field w 10 3
  interval_cases op <;> simp only [tableRow, BitVec.toNat_ofFin] <;> rfl

theorem decodeT9one_row :
    tableRow (decodeT9one w) 0x0100 (field w 10 3).toNat 1024 0xFFC0 ∈ opcodeMap := by
  apply tableRow_mem
  unfold decodeT9one
  obtain ⟨⟨op, hop⟩⟩ := field w 10 3
  interval_cases op <;> simp only [tableRow, BitVec.toNat_ofFin] <;> rfl

theorem decodeT9two_row :
    tableRow (decodeT9two w k) 0x0140 (field w 10 3).toNat 1024 0xFFC0 ∈ opcodeMap := by
  apply tableRow_mem
  unfold decodeT9two
  obtain ⟨⟨op, hop⟩⟩ := field w 10 3
  interval_cases op <;> simp only [tableRow, BitVec.toNat_ofFin] <;> rfl

theorem decodeT10move_row :
    tableRow (decodeT10move w) 0x0000 (field w 10 3).toNat 1024 0xFFC0 ∈ opcodeMap := by
  apply tableRow_mem
  unfold decodeT10move
  obtain ⟨⟨op, hop⟩⟩ := field w 10 3
  interval_cases op <;> simp only [tableRow, BitVec.toNat_ofFin] <;> rfl

theorem decodeT10alu_row :
    tableRow (decodeT10alu w) 0x0040 (field w 10 3).toNat 1024 0xFFC0 ∈ opcodeMap := by
  apply tableRow_mem
  unfold decodeT10alu
  obtain ⟨⟨op, hop⟩⟩ := field w 10 3
  interval_cases op <;> simp only [tableRow, BitVec.toNat_ofFin] <;> rfl

theorem decodeT10offset_row :
    tableRow (decodeT10offset w k) 0x0080 (field w 10 3).toNat 1024 0xFFC0 ∈ opcodeMap := by
  apply tableRow_mem
  unfold decodeT10offset
  obtain ⟨⟨op, hop⟩⟩ := field w 10 3
  interval_cases op <;> simp only [tableRow, BitVec.toNat_ofFin] <;> rfl

end

theorem hasRow_decode (w k : Word) : HasRow (decode w k) w := by
  cases wordPattern w with
  | t1 op a =>
    rw [decode_encodeT1]
    refine .of_field 12 4 (decodeT1_row _) ?_
    simp only [encodeT1_fields, encodeT1_toNat]
    bv_omega
  | t2 cc a =>
    rw [decode_encodeT2]
    refine .of_field 10 6 (decodeT2_row _) ?_
    simp only [encodeT2_fields, encodeT2_toNat]
    bv_omega
  | t3 op imm rd =>
    rw [decode_encodeT3]
    refine .of_field 11 5 (decodeT3_row _) ?_
    simp only [encodeT3_fields, encodeT3_toNat]
    bv_omega
  | t4 op offset rs rd =>
    rw [decode_encodeT4]
    refine .of_field 12 4 (decodeT4_row _) ?_
    simp only [encodeT4_fields, encodeT4_toNat]
    bv_omega
  | t5 op rn rs rd =>
    rw [decode_encodeT5]
    refine .of_field 9 7 (decodeT5_row _) ?_
    simp only [encodeT5_fields, encodeT5_toNat]
    bv_omega
  | t6 cc rn rs rd =>
    rw [decode_encodeT6]
    refine .of_field 9 7 (decodeT6_row _) ?_
    simp only [encodeT6_fields, encodeT6_toNat]
    bv_omega
  | t7 cc x rd =>
    rw [decode_encodeT7]
    refine .of_field 6 10 (decodeT7_row _) ?_
    simp only [encodeT7_fields, encodeT7_toNat]
    bv_omega
  | t8 op x =>
    rw [decode_encodeT8]
    refine .of_field 6 10 (decodeT8_row _ k) ?_
    simp only [encodeT8_fields, encodeT8_toNat]
    bv_omega
  | t9one op x rd =>
    rw [decode_encodeT9_one]
    refine .of_field 6 10 (decodeT9one_row _) ?_
    simp only [encodeT9_fields, encodeT9_toNat]
    bv_omega
  | t9two op x rd =>
    rw [decode_encodeT9_two]
    refine .of_field 6 10 (decodeT9two_row _ k) ?_
    simp only [encodeT9_fields, encodeT9_toNat]
    bv_omega
  | t10move op rs rd =>
    rw [decode_encodeT10_move]
    refine .of_field 6 10 (decodeT10move_row _) ?_
    simp only [encodeT10_fields, encodeT10_toNat]
    bv_omega
  | t10alu op rs rd =>
    rw [decode_encodeT10_alu]
    refine .of_field 6 10 (decodeT10alu_row _) ?_
    simp only [encodeT10_fields, encodeT10_toNat]
    bv_omega
  | t10offset op rs rd =>
    rw [decode_encodeT10_offset]
    refine .of_field 6 10 (decodeT10offset_row _ k) ?_
    simp only [encodeT10_fields, encodeT10_toNat]
    bv_omega
  | t10reserved op rs rd =>
    rw [decode_encodeT10_reserved]
    refine ⟨⟨"reserved.T10.xxx_11", 0x00C0, 0xE3C0, 1⟩, List.mem_of_getElem? (i := 102) rfl,
      rfl, rfl, ?_⟩
    rw [OpcodeRow.matches, beq_iff_eq, land_two_fields, encodeT10_toNat]
    bv_omega

/-! ### No two rows are one -/

theorem opcodeMap_names_nodup : (opcodeMap.map (·.name)).Nodup := by
  decide

theorem row_eq_of_name_eq {r r' : OpcodeRow} (h : r ∈ opcodeMap) (h' : r' ∈ opcodeMap)
    (hn : r.name = r'.name) : r = r' :=
  List.inj_on_of_nodup_map opcodeMap_names_nodup h h' hn

/-- No word matches both rows: their values differ in a bit that both masks have. -/
def OpcodeRow.Apart (r r' : OpcodeRow) : Prop := r.value &&& r'.mask ≠ r'.value &&& r.mask

theorem opcodeMap_pairwise_apart : opcodeMap.Pairwise OpcodeRow.Apart := by
  unfold OpcodeRow.Apart
  decide

theorem OpcodeRow.Apart.not_matches {r r' : OpcodeRow} (h : r.Apart r') {w : Word}
    (hr : r.matches w = true) : r'.matches w ≠ true := by
  intro hr'
  apply h
  rw [← beq_iff_eq.1 hr, ← beq_iff_eq.1 hr', Nat.and_assoc, Nat.and_assoc, Nat.and_comm r.mask]

theorem row_eq_of_matches {r r' : OpcodeRow} (h : r ∈ opcodeMap) (h' : r' ∈ opcodeMap) {w : Word}
    (hr : r.matches w = true) (hr' : r'.matches w = true) : r = r' := by
  have symm : Std.Symm OpcodeRow.Apart := ⟨fun _ _ ha e => ha e.symm⟩
  by_contra hne
  exact (opcodeMap_pairwise_apart.forall h h' hne).not_matches hr hr'

end Sys2Proof
end

section
/-! SUPPORT. The reserved encodings: their names, their one refusal, and that they have neither x
bits nor a second word (30_encoding.md R100, 60_exceptions.md R233). -/

namespace Sys2Proof

/-- The instruction is one of the 19 reserved encodings (R100). -/
def Instr.isReserved : Instr → Bool
  | .reservedT3_111 _ _ => true
  | .reservedT5_0111 _ _ _ => true
  | .reservedT5_1000 _ _ _ => true
  | .reservedT5_1110 _ _ _ => true
  | .reservedT5_1111 _ _ _ => true
  | .reservedT8_100 _ => true
  | .reservedT8_101 _ => true
  | .reservedT8_110 _ => true
  | .reservedT9_100_0 _ _ => true
  | .reservedT9_101_0 _ _ => true
  | .reservedT9_110_1 _ _ => true
  | .reservedT9_111_1 _ _ => true
  | .reservedT10_110_00 _ _ => true
  | .reservedT10_011_01 _ _ => true
  | .reservedT10_100_01 _ _ => true
  | .reservedT10_111_01 _ _ => true
  | .reservedT10_110_10 _ _ => true
  | .reservedT10_111_10 _ _ => true
  | .reservedT10_xxx_11 _ _ _ => true
  | _ => false

theorem Instr.isReserved_eq_contains (i : Instr) :
    i.isReserved = (reservedMap.map (·.name)).contains i.mnemonic := by
  cases i <;> rfl

/-- The reserved encodings are those with the name of a reserved row. -/
theorem Instr.isReserved_iff {i : Instr} :
    i.isReserved = true ↔ ∃ row ∈ reservedMap, row.name = i.mnemonic := by
  rw [Instr.isReserved_eq_contains, List.contains_iff_mem, List.mem_map]

theorem Instr.xBits_of_isReserved {i : Instr} (h : i.isReserved = true) : i.xBits = 0 := by
  cases i <;> cases h <;> rfl

theorem Instr.wellFormed_of_isReserved {i : Instr} (h : i.isReserved = true) (strict : Bool) :
    i.wellFormed strict = true := by
  simp [Instr.wellFormed, Instr.xBits_of_isReserved h]

theorem Instr.secondWord_of_isReserved {i : Instr} (h : i.isReserved = true) :
    i.secondWord = none := by
  cases i <;> cases h <;> rfl

theorem Instr.withSecondWord_isReserved (i : Instr) (k : Word) :
    (i.withSecondWord k).isReserved = i.isReserved := by
  cases i <;> rfl

theorem mem_opcodeMap {row : OpcodeRow} :
    row ∈ opcodeMap ↔ row ∈ instructionMap ∨ row ∈ reservedMap :=
  List.mem_append

/-- A word that matches a row of the map decodes to the row's instruction. -/
theorem decode_mnemonic_of_matches {row : OpcodeRow} (hrow : row ∈ opcodeMap) {w : Word}
    (h : row.matches w = true) (k : Word) : (decode w k).mnemonic = row.name := by
  obtain ⟨r, hr, hname, -, hmatch⟩ := hasRow_decode w k
  rw [row_eq_of_matches hrow hr h hmatch, hname]

theorem decode_isReserved_of_matches {row : OpcodeRow} (hrow : row ∈ reservedMap) {w : Word}
    (h : row.matches w = true) (k : Word) : (decode w k).isReserved = true :=
  Instr.isReserved_iff.2
    ⟨row, hrow, (decode_mnemonic_of_matches (mem_opcodeMap.2 (.inr hrow)) h k).symm⟩

/-- No reserved row has the name of an instruction row. -/
theorem instructionMap_name_ne {row r : OpcodeRow} (hrow : row ∈ instructionMap)
    (hr : r ∈ reservedMap) : r.name ≠ row.name := by
  have hd := List.nodup_append.1 (List.map_append ▸ opcodeMap_names_nodup)
  exact (hd.2.2 _ (List.mem_map_of_mem hrow) _ (List.mem_map_of_mem hr)).symm

theorem decode_isReserved_of_instruction {row : OpcodeRow} (hrow : row ∈ instructionMap) {w : Word}
    (h : row.matches w = true) (k : Word) : (decode w k).isReserved = false := by
  rw [← Bool.not_eq_true, Instr.isReserved_iff]
  rintro ⟨r, hr, hn⟩
  exact instructionMap_name_ne hrow hr
    (hn.trans (decode_mnemonic_of_matches (mem_opcodeMap.2 (.inl hrow)) h k))

end Sys2Proof

namespace Sys2Proof.Machine

theorem exec_of_isReserved {i : Instr} (h : i.isReserved = true) (s : State) :
    exec i s = .refused .reservedEncoding := by
  cases i <;> cases h <;> rfl

/-- A reserved word is fetched whatever its bits, and no second word with it (R233). -/
theorem fetchInstr_of_reserved {s : State} {w : Word} (hw : readProg s s.pc = .next w)
    (h : (decode w 0).isReserved = true) : fetchInstr s = .next (decode w 0) := by
  have h2 : twoWords w = false := by
    rw [twoWords_eq_isSome, Instr.secondWord_of_isReserved h, Option.isSome_none]
  exact fetchInstr_eq_next.2 ⟨w, hw, Instr.wellFormed_of_isReserved h _, .inl ⟨h2, rfl⟩⟩

theorem step_of_reserved {s : State} {w : Word} (hn : NoInterrupt 1 s)
    (hw : readProg s s.pc = .next w) (h : (decode w 0).isReserved = true) :
    step s = .refused .reservedEncoding := by
  rw [step_of_notDue (interruptDue_none_of_quiet (noInterrupt_one.1 hn)),
    fetchInstr_of_reserved hw h, andThen_next, exec_of_isReserved h]

end Sys2Proof.Machine
end

section
/-! SUPPORT. The x bits of a word, by its pattern (30_encoding.md R101). -/

namespace Sys2Proof.Machine

/-! ### The mask of a pattern -/

theorem xMask_of_high_bits {w : Word} (h : w.toNat / 8192 ≠ 0) : xMask w = 0 :=
  if_neg h

theorem xMask_of_bits {w : Word} (h : w.toNat / 64 % 16 < 4 ∨ 8 ≤ w.toNat / 64 % 16) :
    xMask w = 0 := by
  have h7 : w.toNat / 64 % 16 ≠ 7 := by omega
  have h6 : w.toNat / 64 % 16 ≠ 6 := by omega
  have h2 : w.toNat / 128 % 8 ≠ 2 := by omega
  simp only [xMask, h7, h6, h2, if_false]
  exact ite_self _

theorem xMask_encodeT1 (op : BitVec 1) (a : BitVec 12) : xMask (encodeT1 op a) = 0 :=
  xMask_of_high_bits (by rw [encodeT1_toNat]; omega)

theorem xMask_encodeT2 (cc : BitVec 3) (a : BitVec 10) : xMask (encodeT2 cc a) = 0 :=
  xMask_of_high_bits (by rw [encodeT2_toNat]; omega)

theorem xMask_encodeT3 (op : BitVec 3) (imm : BitVec 8) (rd : Reg) :
    xMask (encodeT3 op imm rd) = 0 :=
  xMask_of_high_bits (by rw [encodeT3_toNat]; omega)

theorem xMask_encodeT4 (op : BitVec 2) (offset : BitVec 6) (rs rd : Reg) :
    xMask (encodeT4 op offset rs rd) = 0 :=
  xMask_of_high_bits (by rw [encodeT4_toNat]; omega)

theorem xMask_encodeT5 (op : BitVec 4) (rn rs rd : Reg) : xMask (encodeT5 op rn rs rd) = 0 :=
  xMask_of_high_bits (by rw [encodeT5_toNat]; omega)

theorem xMask_encodeT6 (cc : BitVec 3) (rn rs rd : Reg) : xMask (encodeT6 cc rn rs rd) = 0 :=
  xMask_of_bits (by rw [encodeT6_toNat]; omega)

theorem xMask_encodeT10 (op : BitVec 3) (op2 : BitVec 2) (rs rd : Reg) :
    xMask (encodeT10 op op2 rs rd) = 0 :=
  xMask_of_bits (by rw [encodeT10_toNat]; omega)

theorem xMask_encodeT7 (cc x : BitVec 3) (rd : Reg) : xMask (encodeT7 cc x rd) = 0x0038 := by
  rw [xMask, encodeT7_toNat, if_pos (by omega), if_pos (by omega)]

theorem xMask_encodeT8 (op : BitVec 3) (x : BitVec 6) : xMask (encodeT8 op x) = 0x003F := by
  rw [xMask, encodeT8_toNat, if_pos (by omega), if_neg (by omega), if_pos (by omega)]

theorem xMask_encodeT9 (op : BitVec 3) (o : BitVec 1) (x : BitVec 3) (rd : Reg) :
    xMask (encodeT9 op o x rd) = 0x0038 := by
  rw [xMask, encodeT9_toNat, if_pos (by omega), if_neg (by omega), if_neg (by omega),
    if_pos (by omega)]

/-! ### The bits under the mask -/

theorem and_0x38_toNat (w : Word) : (w &&& 0x0038).toNat = w.toNat / 8 % 8 * 8 :=
  land_field w.toNat 3 3

theorem and_0x3F_toNat (w : Word) : (w &&& 0x003F).toNat = w.toNat % 64 :=
  Nat.and_two_pow_sub_one_eq_mod w.toNat 6

/-- A word is its bits outside a mask and its bits under it. -/
theorem toNat_and_not_add_and (w m : Word) : (w &&& ~~~m).toNat + (w &&& m).toNat = w.toNat := by
  have disjoint : (w &&& ~~~m) &&& (w &&& m) = 0#16 := by
    ext j
    grind
  rw [← BitVec.toNat_add_of_and_eq_zero disjoint, BitVec.add_eq_or_of_and_eq_zero _ _ disjoint]
  congr 1
  ext j
  grind

theorem encodeT7_clear_x (cc x : BitVec 3) (rd : Reg) :
    encodeT7 cc x rd &&& ~~~0x0038 = encodeT7 cc 0 rd := by
  have h := toNat_and_not_add_and (encodeT7 cc x rd) 0x0038
  rw [and_0x38_toNat, encodeT7_toNat] at h
  apply BitVec.eq_of_toNat_eq
  rw [encodeT7_toNat]
  bv_omega

theorem encodeT8_clear_x (op : BitVec 3) (x : BitVec 6) :
    encodeT8 op x &&& ~~~0x003F = encodeT8 op 0 := by
  have h := toNat_and_not_add_and (encodeT8 op x) 0x003F
  rw [and_0x3F_toNat, encodeT8_toNat] at h
  apply BitVec.eq_of_toNat_eq
  rw [encodeT8_toNat]
  bv_omega

theorem encodeT9_clear_x (op : BitVec 3) (o : BitVec 1) (x : BitVec 3) (rd : Reg) :
    encodeT9 op o x rd &&& ~~~0x0038 = encodeT9 op o 0 rd := by
  have h := toNat_and_not_add_and (encodeT9 op o x rd) 0x0038
  rw [and_0x38_toNat, encodeT9_toNat] at h
  apply BitVec.eq_of_toNat_eq
  rw [encodeT9_toNat]
  bv_omega

/-! ### The x bits change nothing of what an instruction does -/

/-- Two instructions that do the same in every state and are of one length. -/
def DoesSame (i j : Instr) : Prop :=
  (∀ s, exec i s = exec j s) ∧ i.secondWord.isSome = j.secondWord.isSome

theorem DoesSame.refl (i : Instr) : DoesSame i i :=
  ⟨fun _ => rfl, rfl⟩

section
variable (k : Word)

theorem doesSame_encodeT7 (cc x y : BitVec 3) (rd : Reg) :
    DoesSame (decode (encodeT7 cc x rd) k) (decode (encodeT7 cc y rd) k) := by
  simp only [decode_encodeT7, decodeT7, encodeT7_fields]
  obtain ⟨⟨op, hop⟩⟩ := cc
  interval_cases op <;> exact ⟨fun _ => rfl, rfl⟩

theorem doesSame_encodeT8 (op : BitVec 3) (x y : BitVec 6) :
    DoesSame (decode (encodeT8 op x) k) (decode (encodeT8 op y) k) := by
  simp only [decode_encodeT8, decodeT8, encodeT8_fields]
  obtain ⟨⟨op, hop⟩⟩ := op
  interval_cases op <;> exact ⟨fun _ => rfl, rfl⟩

theorem doesSame_encodeT9_one (op x y : BitVec 3) (rd : Reg) :
    DoesSame (decode (encodeT9 op 0 x rd) k) (decode (encodeT9 op 0 y rd) k) := by
  simp only [decode_encodeT9_one, decodeT9one, encodeT9_fields]
  obtain ⟨⟨op, hop⟩⟩ := op
  interval_cases op <;> exact ⟨fun _ => rfl, rfl⟩

theorem doesSame_encodeT9_two (op x y : BitVec 3) (rd : Reg) :
    DoesSame (decode (encodeT9 op 1 x rd) k) (decode (encodeT9 op 1 y rd) k) := by
  simp only [decode_encodeT9_two, decodeT9two, encodeT9_fields]
  obtain ⟨⟨op, hop⟩⟩ := op
  interval_cases op <;> exact ⟨fun _ => rfl, rfl⟩

end

/-- Where the pattern has no x bits, clearing them leaves the word. -/
theorem doesSame_of_xMask {w : Word} (h : xMask w = 0) (k : Word) :
    DoesSame (decode w k) (decode (w &&& ~~~xMask w) k) := by
  have same : w &&& ~~~xMask w = w := by
    rw [h]
    exact BitVec.and_allOnes
  rw [same]
  exact .refl _

/-- A word does the same with its x bits cleared (R101). -/
theorem doesSame_clear_x (w k : Word) :
    DoesSame (decode w k) (decode (w &&& ~~~xMask w) k) := by
  cases wordPattern w with
  | t1 op a => exact doesSame_of_xMask (xMask_encodeT1 op a) k
  | t2 cc a => exact doesSame_of_xMask (xMask_encodeT2 cc a) k
  | t3 op imm rd => exact doesSame_of_xMask (xMask_encodeT3 op imm rd) k
  | t4 op offset rs rd => exact doesSame_of_xMask (xMask_encodeT4 op offset rs rd) k
  | t5 op rn rs rd => exact doesSame_of_xMask (xMask_encodeT5 op rn rs rd) k
  | t6 cc rn rs rd => exact doesSame_of_xMask (xMask_encodeT6 cc rn rs rd) k
  | t10move op rs rd | t10alu op rs rd | t10offset op rs rd | t10reserved op rs rd =>
    exact doesSame_of_xMask (xMask_encodeT10 op _ rs rd) k
  | t7 cc x rd =>
    rw [xMask_encodeT7, encodeT7_clear_x]
    exact doesSame_encodeT7 k cc x 0 rd
  | t8 op x =>
    rw [xMask_encodeT8, encodeT8_clear_x]
    exact doesSame_encodeT8 k op x 0
  | t9one op x rd =>
    rw [xMask_encodeT9, encodeT9_clear_x]
    exact doesSame_encodeT9_one k op x 0 rd
  | t9two op x rd =>
    rw [xMask_encodeT9, encodeT9_clear_x]
    exact doesSame_encodeT9_two k op x 0 rd

theorem twoWords_clear_x (w : Word) : twoWords w = twoWords (w &&& ~~~xMask w) := by
  rw [twoWords_eq_isSome, twoWords_eq_isSome]
  exact (doesSame_clear_x w 0).2

/-! ### The x bits of what is decoded -/

section
variable (w k : Word)

theorem xBits_decodeT1 : (decodeT1 w).xBits = 0 := by
  unfold decodeT1
  split <;> rfl

theorem xBits_decodeT2 : (decodeT2 w).xBits = 0 := by
  unfold decodeT2
  split <;> rfl

theorem xBits_decodeT3 : (decodeT3 w).xBits = 0 := by
  unfold decodeT3
  split <;> rfl

theorem xBits_decodeT4 : (decodeT4 w).xBits = 0 := by
  unfold decodeT4
  split <;> rfl

theorem xBits_decodeT5 : (decodeT5 w).xBits = 0 := by
  unfold decodeT5
  split <;> rfl

theorem xBits_decodeT6 : (decodeT6 w).xBits = 0 := by
  unfold decodeT6
  split <;> rfl

theorem xBits_decodeT10move : (decodeT10move w).xBits = 0 := by
  unfold decodeT10move
  split <;> rfl

theorem xBits_decodeT10alu : (decodeT10alu w).xBits = 0 := by
  unfold decodeT10alu
  split <;> rfl

theorem xBits_decodeT10offset : (decodeT10offset w k).xBits = 0 := by
  unfold decodeT10offset
  split <;> rfl

theorem xBits_decodeT7 : (decodeT7 w).xBits = (field w 3 3).setWidth 6 := by
  unfold decodeT7
  split <;> rfl

theorem xBits_decodeT8 (h : (decodeT8 w k).isReserved = false) :
    (decodeT8 w k).xBits = field w 0 6 := by
  unfold decodeT8 at h ⊢
  split at h <;> cases h <;> rfl

theorem xBits_decodeT9one (h : (decodeT9one w).isReserved = false) :
    (decodeT9one w).xBits = (field w 3 3).setWidth 6 := by
  unfold decodeT9one at h ⊢
  split at h <;> cases h <;> rfl

theorem xBits_decodeT9two (h : (decodeT9two w k).isReserved = false) :
    (decodeT9two w k).xBits = (field w 3 3).setWidth 6 := by
  unfold decodeT9two at h ⊢
  split at h <;> cases h <;> rfl

end

/-- An instruction's x bits stand where the mask of its first word says. -/
inductive XBitsAt (w : Word) (x : BitVec 6) : Prop
  | none (hm : xMask w = 0) (hx : x = 0)
  | three (hm : xMask w = 0x0038) (hx : x.toNat = w.toNat / 8 % 8)
  | six (hm : xMask w = 0x003F) (hx : x.toNat = w.toNat % 64)

theorem xBitsAt_decode {w k : Word} (h : (decode w k).isReserved = false) :
    XBitsAt w (decode w k).xBits := by
  cases wordPattern w with
  | t1 op a =>
    rw [decode_encodeT1]
    exact .none (xMask_encodeT1 op a) (xBits_decodeT1 _)
  | t2 cc a =>
    rw [decode_encodeT2]
    exact .none (xMask_encodeT2 cc a) (xBits_decodeT2 _)
  | t3 op imm rd =>
    rw [decode_encodeT3]
    exact .none (xMask_encodeT3 op imm rd) (xBits_decodeT3 _)
  | t4 op offset rs rd =>
    rw [decode_encodeT4]
    exact .none (xMask_encodeT4 op offset rs rd) (xBits_decodeT4 _)
  | t5 op rn rs rd =>
    rw [decode_encodeT5]
    exact .none (xMask_encodeT5 op rn rs rd) (xBits_decodeT5 _)
  | t6 cc rn rs rd =>
    rw [decode_encodeT6]
    exact .none (xMask_encodeT6 cc rn rs rd) (xBits_decodeT6 _)
  | t10move op rs rd =>
    rw [decode_encodeT10_move]
    exact .none (xMask_encodeT10 op 0 rs rd) (xBits_decodeT10move _)
  | t10alu op rs rd =>
    rw [decode_encodeT10_alu]
    exact .none (xMask_encodeT10 op 1 rs rd) (xBits_decodeT10alu _)
  | t10offset op rs rd =>
    rw [decode_encodeT10_offset]
    exact .none (xMask_encodeT10 op 2 rs rd) (xBits_decodeT10offset _ k)
  | t10reserved op rs rd =>
    rw [decode_encodeT10_reserved] at h
    cases h
  | t7 cc x rd =>
    rw [decode_encodeT7]
    refine .three (xMask_encodeT7 cc x rd) ?_
    rw [xBits_decodeT7, BitVec.toNat_setWidth, field_toNat]
    omega
  | t8 op x =>
    rw [decode_encodeT8] at h ⊢
    refine .six (xMask_encodeT8 op x) ?_
    rw [xBits_decodeT8 _ _ h, field_toNat]
    omega
  | t9one op x rd =>
    rw [decode_encodeT9_one] at h ⊢
    refine .three (xMask_encodeT9 op 0 x rd) ?_
    rw [xBits_decodeT9one _ h, BitVec.toNat_setWidth, field_toNat]
    omega
  | t9two op x rd =>
    rw [decode_encodeT9_two] at h ⊢
    refine .three (xMask_encodeT9 op 1 x rd) ?_
    rw [xBits_decodeT9two _ _ h, BitVec.toNat_setWidth, field_toNat]
    omega

theorem xBitsAt_encode {i : Instr} {w : Word} {rest : List Word} (he : encode i = w :: rest)
    (hr : i.isReserved = false) : XBitsAt w i.xBits := by
  obtain ⟨v, hv, hd⟩ := exists_firstWord i
  obtain ⟨rfl, -⟩ := List.cons.inj (hv.symm.trans he)
  rw [← Instr.withSecondWord_isReserved i 0, ← hd 0] at hr
  rw [← Instr.withSecondWord_xBits i 0, ← hd 0]
  exact xBitsAt_decode hr

namespace XBitsAt

variable {w : Word} {x : BitVec 6}

theorem toNat_of_six (h : XBitsAt w x) (hm : xMask w = 0x003F) : w.toNat % 64 = x.toNat := by
  cases h with
  | none hm' | three hm' => exact absurd (hm'.symm.trans hm) (by decide)
  | six _ hx => exact hx.symm

theorem toNat_of_three (h : XBitsAt w x) (hm : xMask w = 0x0038) :
    w.toNat / 8 % 8 = x.toNat := by
  cases h with
  | none hm' | six hm' => exact absurd (hm'.symm.trans hm) (by decide)
  | three _ hx => exact hx.symm

theorem eq_zero_iff (h : XBitsAt w x) : x = 0 ↔ w &&& xMask w = 0 := by
  cases h with
  | none hm hx => simp [hm, hx]
  | three hm hx =>
    have hw := and_0x38_toNat w
    rw [hm]
    bv_omega
  | six hm hx =>
    have hw := and_0x3F_toNat w
    rw [hm]
    bv_omega

end XBitsAt

/-! ### `STRICT_X` -/

theorem wellFormed_strict_iff {i : Instr} : i.wellFormed true = true ↔ i.xBits = 0 := by
  simp [Instr.wellFormed]

theorem wellFormed_of_no_x {w : Word} (h : w &&& xMask w = 0) :
    (decode w 0).wellFormed true = true := by
  cases hr : (decode w 0).isReserved with
  | true => exact Instr.wellFormed_of_isReserved hr true
  | false => exact wellFormed_strict_iff.2 ((xBitsAt_decode hr).eq_zero_iff.2 h)

theorem not_wellFormed_of_x {w : Word} (hr : (decode w 0).isReserved = false)
    (h : w &&& xMask w ≠ 0) : (decode w 0).wellFormed true = false := by
  rw [← Bool.not_eq_true, wellFormed_strict_iff]
  exact fun hx => h ((xBitsAt_decode hr).eq_zero_iff.1 hx)

theorem fetchInstr_of_xBits {s : State} {w : Word} (hw : readProg s s.pc = .next w)
    (hx : (decode w 0).wellFormed s.cfg.strictX = false) :
    fetchInstr s = .refused .nonzeroXBits := by
  simp only [fetchInstr, hw, andThen_next, hx, Bool.false_eq_true, if_false]

end Sys2Proof.Machine
end

section
/-! PROOFS. The statements on 30_encoding.md. -/

open Sys2Proof Sys2Proof.Machine

/-- Settles O1: the first word decodes to the instruction with whatever second word is read, which
leaves its x bits and its length. -/
theorem decodeOfEncodeIsIdentity : Obligations.DecodeOfEncodeIsIdentity := by
  intro strict i rest hi
  obtain ⟨w, hw, hd⟩ := exists_firstWord i
  have hx : (decode w 0).wellFormed strict = true := by
    rw [hd, Instr.withSecondWord_wellFormed, hi]
  have h2 : twoWords w = i.secondWord.isSome := by
    rw [twoWords_eq_isSome, hd, Instr.withSecondWord_secondWord, Option.isSome_map]
  rw [EncodesAs] at hw
  cases hs : i.secondWord with
  | none =>
    rw [hs] at hw h2
    rw [hw, ← Instr.withSecondWord_of_none hs 0, ← hd]
    exact decodeWords_of_one hx h2 rest
  | some k =>
    rw [hs] at hw h2
    rw [hw, ← Instr.withSecondWord_of_some hs, ← hd]
    exact decodeWords_of_two hx h2 k rest

/-- Settles O2: the first word is written back whole, and the second where it was read. -/
theorem encodeOfDecodeIsIdentity : Obligations.EncodeOfDecodeIsIdentity := by
  intro strict ws rest i h
  obtain ⟨w, hx, ⟨h2, rfl, rfl⟩ | ⟨h2, k, rfl, rfl⟩⟩ := decodeWords_eq_ok h
  · exact ⟨congrArg (· ++ rest) (encode_decode_of_one h2 0), hx⟩
  · exact ⟨congrArg (· ++ rest) (encode_decode_of_two h2 k),
      (decode_wellFormed w k strict).trans hx⟩

/-- Settles O3: the row of what a word decodes to is the only one of its name, and the only one that
the word matches. -/
theorem opcodeMapMatchesDecoder : Obligations.OpcodeMapMatchesDecoder := by
  refine ⟨fun row hrow w k => ?_, fun w => ?_⟩
  · obtain ⟨r, hr, hname, hwords, hmatch⟩ := hasRow_decode w k
    refine ⟨⟨fun h => ?_, fun h => ?_⟩, fun h => ?_⟩
    · rw [row_eq_of_matches hrow hr h hmatch, hname]
    · rwa [row_eq_of_name_eq hrow hr (h.symm.trans hname.symm)]
    · rw [row_eq_of_matches hrow hr h hmatch, hwords]
  · obtain ⟨r, hr, -, -, hmatch⟩ := hasRow_decode w 0
    exact ⟨r, hr, hmatch⟩

/-- Settles O4: the second word changes no name, and the names of the two-word instructions are
R81's. -/
theorem lengthFollowsFirstWord : Obligations.LengthFollowsFirstWord := by
  intro w k k'
  rw [decode_length w k]
  refine ⟨(decode_mnemonic w k).trans (decode_mnemonic w k').symm, ?_, ?_, ?_⟩
  · cases twoWords w <;> decide
  · cases twoWords w <;> decide
  · rw [twoWords_eq_contains w k]
    exact List.contains_iff_mem

/-- Settles O6: a word that matches a reserved row decodes to a reserved constructor. -/
theorem reservedWordsRefused : Obligations.ReservedWordsRefused := by
  refine ⟨⟨rfl, fun w => ?_⟩, fun row hrow w k s h => ⟨?_, fun hn hw => ?_⟩, fun s => ?_⟩
  · obtain ⟨r, hr, -, -, hmatch⟩ := hasRow_decode w 0
    exact (mem_opcodeMap.1 hr).imp (fun hi => ⟨r, hi, hmatch⟩) fun hi => ⟨r, hi, hmatch⟩
  · exact exec_of_isReserved (decode_isReserved_of_matches hrow h k) s
  · exact step_of_reserved hn hw (decode_isReserved_of_matches hrow h 0)
  · exact ⟨fun _ _ => rfl, fun _ _ _ => rfl, fun _ _ _ => rfl, fun _ _ _ => rfl, fun _ _ _ => rfl,
      fun _ => rfl, fun _ => rfl, fun _ => rfl, fun _ _ => rfl, fun _ _ => rfl, fun _ _ => rfl,
      fun _ _ => rfl, fun _ _ => rfl, fun _ _ => rfl, fun _ _ => rfl, fun _ _ => rfl,
      fun _ _ => rfl, fun _ _ => rfl, fun _ _ _ => rfl⟩

/-- Settles O7: the mask of a word's pattern holds the x bits of what it decodes to, which no
meaning reads. -/
theorem xBitsBySetting : Obligations.XBitsBySetting := by
  refine ⟨fun w k rest => exists_decodeWords_ok rfl k rest,
    fun w k s => ⟨(doesSame_clear_x w k).1 s, twoWords_clear_x w⟩, fun i w rest hi he => ?_,
    fun w rest hrow hx => ?_,
    fun w k rest hx => exists_decodeWords_ok (wellFormed_of_no_x hx) k rest,
    fun w s hrow hx hs hn hw => ?_⟩
  · have hr : i.isReserved = false := by
      rw [← Bool.not_eq_true, Instr.isReserved_iff]
      rintro ⟨row, hrow, hn⟩
      exact hi row hrow hn.symm
    have hx := xBitsAt_encode he hr
    exact ⟨hx.toNat_of_six, hx.toNat_of_three, hx.eq_zero_iff⟩
  · obtain ⟨row, hrow, hmatch⟩ := hrow
    have hr := decode_isReserved_of_instruction hrow hmatch 0
    exact decodeWords_of_xBits (not_wellFormed_of_x hr hx) rest
  · obtain ⟨row, hrow, hmatch⟩ := hrow
    have hr := decode_isReserved_of_instruction hrow hmatch 0
    exact step_of_fetch_refused hn (fetchInstr_of_xBits hw (hs ▸ not_wellFormed_of_x hr hx))

/-- Settles O45: each mapping of the T4 field has an inverse on -16..47. -/
theorem effectiveAddresses : Obligations.EffectiveAddresses := by
  refine ⟨fun f => ⟨rfl, rfl, rfl⟩, t4Offset_range, fun d k hl hu => ?_,
    fun d e f => t4Offset_injective f d e,
    fun s rs => ⟨eaImm_toNat s rs, fun rn => ?_, fun k => ?_⟩⟩
  · exact ⟨t4Field d k, t4Offset_t4Field d hl hu, fun g hg => hg ▸ (t4Field_t4Offset d g).symm⟩
  · exact BitVec.toNat_add _ _
  · exact BitVec.toNat_add _ _

/-- Settles O5, by evaluating the decoder on the twelve words. -/
theorem sampleWordsDecode : Obligations.SampleWordsDecode :=
  ⟨rfl, rfl, rfl, rfl, rfl, rfl, rfl, rfl, rfl, rfl, rfl, rfl⟩

end

section
/-! SUPPORT. Relative targets, branches, calls and the return from a call, in the words of
Safety.lean (30_encoding.md R90, 40_relative_jump_call_branch.md R110 to R113). -/

namespace Sys2Proof.Machine

/-! ### Targets and branches (R90, R110, R112) -/

theorem relTarget_sext12 (s : State) (a : BitVec 12) :
    RelativeTarget s a.toInt (relTarget s (sext12 a)) :=
  sext12_toInt a ▸ relTarget_relative s (sext12 a)

theorem relTarget_sext10 (s : State) (a : BitVec 10) :
    RelativeTarget s a.toInt (relTarget s (sext10 a)) :=
  sext10_toInt a ▸ relTarget_relative s (sext10 a)

theorem State.setPc_keepsFlags (s : State) (target : Word) : KeepsFlags s (s.setPc target) :=
  ⟨rfl, rfl⟩

theorem State.setPc_frame (s : State) (target : Word) : Frame [] [] s (s.setPc target) :=
  .of_fields (fun _ _ => rfl) rfl rfl rfl rfl

theorem exec_jmprel (a : BitVec 12) (s : State) :
    exec (.jmprel a) s = .next (s.setPc (relTarget s (sext12 a))) := rfl

theorem exec_branchInstr (cc : Cond) (a : BitVec 10) (s : State) :
    exec (branchInstr cc a) s = branchOp cc a s := by
  cases cc <;> rfl

theorem exec_branchInstr_taken {cc : Cond} {s : State} (a : BitVec 10) (h : CondTests cc s.flags) :
    exec (branchInstr cc a) s = .next (s.setPc (relTarget s (sext10 a))) := by
  rw [exec_branchInstr, branchOp, if_pos ((condHolds_iff cc s.flags).2 h)]

theorem exec_branchInstr_notTaken {cc : Cond} {s : State} (a : BitVec 10)
    (h : ¬ CondTests cc s.flags) :
    exec (branchInstr cc a) s = .next (s.setPc (s.pc + 1)) := by
  rw [exec_branchInstr, branchOp, if_neg (mt (condHolds_iff cc s.flags).1 h), State.advance]

/-! ### Calls and the return from one (R111, R113, R170) -/

/-- Each of the three calls is the shared call, and the length it pushes past is its own. -/
theorem exec_call {i : Instr} (s : State) (h : i.mnemonic ∈ callNames) :
    ∃ target, exec i s = callOp s target (BitVec.ofNat 16 i.length) := by
  cases i with
  | callrel | calladr | callreg => exact ⟨_, rfl⟩
  | _ => cases List.contains_iff_mem.2 h

/-- A call that completes has put the return address at the place of its push. -/
theorem callOp_calls {s t : State} {target len : Word} (h : callOp s target len = .next t) :
    ∃ p, PerformedAt s (s.get .sp - 2) p ∧ Calls s t p target len := by
  obtain ⟨_, hpush, -⟩ := andThen_eq_next.1 h
  obtain ⟨p, hp, hf, -⟩ := pushWord_eq_next.1 hpush
  obtain ⟨t', ht', hc⟩ := callOp_spec target len hp hf
  obtain rfl : t = t' := by simpa [h] using ht'
  exact ⟨p, hp, hc⟩

/-- Where a word access is performed depends on the configuration alone (20_memory.md R53). -/
theorem PerformedAt.congr {s t : State} {a p : Word} (h : PerformedAt s a p) (hc : t.cfg = s.cfg) :
    PerformedAt t a p := by
  rwa [PerformedAt, hc]

theorem exec_ret {s : State} {p v : Word} (x : BitVec 6) (hp : PerformedAt s (s.get .sp) p)
    (hv : HoldsWord s p v) :
    exec (.ret x) s = .next ((s.set .sp (s.get .sp + 2)).setPc v) := by
  have hpop := popWord_eq_next.2 ⟨p, hp, hv, rfl⟩
  simp only [exec, execRet, hpop, andThen_next]

/-- A register set back to what it held, where every other one still holds it. -/
theorem State.get_set_restore {s t : State} {r : Reg} {v : Word} (hv : v = s.get r)
    (hr : ∀ q, q ≠ r → t.get q = s.get q) (q : Reg) : (t.set r v).get q = s.get q := by
  by_cases h : q = r
  · rw [h, State.get_set_same, hv]
  · rw [State.get_set_ne t v h, hr q h]

/-- The word a call has pushed is the one that a `ret` pops. -/
theorem Calls.ret_returns {s t : State} {p target len : Word} (x : BitVec 6)
    (hp : PerformedAt s (s.get .sp - 2) p) (hc : Calls s t p target len) :
    ∃ u, exec (.ret x) t = .next u ∧ u.pc = s.pc + len ∧ u.flags = s.flags ∧
      ∀ r, u.get r = s.get r := by
  obtain ⟨-, hsp, hword, ⟨hflags, -⟩, hframe⟩ := hc
  have hp' : PerformedAt t (t.get .sp) p := hsp ▸ hp.congr hframe.cfg
  have hrestore : t.get .sp + 2 = s.get .sp := by
    rw [hsp, BitVec.sub_add_cancel]
  exact ⟨_, exec_ret x hp' hword, rfl, hflags,
    State.get_set_restore hrestore fun q hq => hframe.regs q (by simpa using hq)⟩

end Sys2Proof.Machine
end

section
/-! PROOFS. The statements on 40_relative_jump_call_branch.md. -/

open Sys2Proof Sys2Proof.Machine

/-- Settles O19: each call is the shared call, with the target read before the push. -/
theorem callsPushReturnAddress : Obligations.CallsPushReturnAddress := by
  intro s p hp hf
  refine ⟨fun a => ?_, fun _ a => callOp_spec a 2 hp hf,
    fun _ rd => callOp_spec (s.get rd) 1 hp hf⟩
  obtain ⟨t, ht, hc⟩ := callOp_spec (relTarget s (sext12 a)) 1 hp hf
  exact ⟨t, _, ht, relTarget_sext12 s a, hc⟩

/-- Settles O20, by whether the condition holds: either way `pc` alone is written. -/
theorem branchByCondition : Obligations.BranchByCondition := by
  intro s cc a
  by_cases h : CondTests cc s.flags
  · exact ⟨_, exec_branchInstr_taken a h, fun _ => relTarget_sext10 s a, fun hn => absurd h hn,
      s.setPc_keepsFlags _, s.setPc_frame _⟩
  · exact ⟨_, exec_branchInstr_notTaken a h, fun ht => absurd ht h, fun _ => rfl,
      s.setPc_keepsFlags _, s.setPc_frame _⟩

/-- Settles O22: the `ret` pops the word that the call pushed, from where the call left SP. -/
theorem callThenRetReturns : Obligations.CallThenRetReturns := by
  intro s t x i hm h
  obtain ⟨target, hcall⟩ := exec_call s hm
  obtain ⟨p, hp, hc⟩ := callOp_calls (hcall.symm.trans h)
  exact hc.ret_returns x hp

/-- Settles O17: a jump writes `pc` alone. -/
theorem jmprelTarget : Obligations.JmprelTarget :=
  fun s a => ⟨_, exec_jmprel a s, relTarget_sext12 s a, s.setPc_keepsFlags _, s.setPc_frame _⟩

end

section
/-! SUPPORT. The compares, the additions and subtractions, and the logical instructions with their
results in exact numbers (10_state.md R26 to R29, 41_alu_immediate.md R121 to R126). -/

namespace Sys2Proof.Machine

/-! ### Values -/

/-- The zero-extended immediate bit by bit. -/
theorem zext8_getLsbD (k : BitVec 8) {j : Nat} (hj : j < 16) :
    (zext8 k).getLsbD j = k.getLsbD j := by
  simp only [zext8, BitVec.getLsbD_setWidth, hj, decide_true, Bool.true_and]

/-- What an operation does with a value, as a value of which a fact is known. -/
theorem exists_next_value {o : Res State} {E : State → Word → Prop} {P : Word → Prop} {v : Word}
    (h : ∃ t, o = .next t ∧ E t v) (hv : P v) : ∃ t v, o = .next t ∧ E t v ∧ P v := by
  obtain ⟨t, ht, hE⟩ := h
  exact ⟨t, v, ht, hE, hv⟩

/-! ### The shared operations -/

/-- A compare sets SR from the exact difference, and changes nothing else but `pc` (R27). -/
theorem compareOp_spec (s : State) (a b : Word) :
    ∃ t r, compareOp s a b = .next t ∧ IsDifference a b 0 r t.flags.c t.flags.v ∧
      ZeroAndSign r t.flags.z t.flags.s ∧ KeepsIAndAR s t ∧ t.draws = s.draws ∧
      t.pc = s.pc + 1 ∧ Frame [] [] s t :=
  ⟨_, _, rfl, subWithCarry_isDifference a b true, zeroAndSign _, ⟨rfl, rfl, rfl⟩, rfl, rfl,
    .of_fields (fun _ _ => rfl) rfl rfl rfl rfl⟩

/-- An addition or subtraction leaves the flags of what its carry and overflow say of the result, and
AZ says that the result is 0 (R27, R29). -/
theorem arithOp_result {s : State} {rd : Reg} {o : AddOut} (P : Word → Bool → Bool → Prop)
    (h : P o.result o.carry o.overflow) :
    ∃ t r, arithOp s rd o = .next t ∧ P r t.flags.c t.flags.v ∧ ArithEffect s t rd r ∧
      (t.flags.az = true ↔ r.toNat = 0) := by
  obtain ⟨t, ht, heffect, hc, hv, haz⟩ := arithOp_spec s rd o
  refine ⟨t, o.result, ht, ?_, heffect, ?_⟩
  · rwa [hc, hv]
  · rw [haz]
    exact (zeroAndSign o.result).1

/-- The addition that takes no carry in. -/
theorem arithOp_add (s : State) (rd : Reg) (a b : Word) :
    ∃ t r, arithOp s rd (addWithCarry a b false) = .next t ∧
      IsSum a b 0 r t.flags.c t.flags.v ∧ ArithEffect s t rd r ∧
      (t.flags.az = true ↔ r.toNat = 0) :=
  arithOp_result (IsSum a b 0) (addWithCarry_isSum a b false)

/-- The subtraction that takes no borrow in. -/
theorem arithOp_sub (s : State) (rd : Reg) (a b : Word) :
    ∃ t r, arithOp s rd (subWithCarry a b true) = .next t ∧
      IsDifference a b 0 r t.flags.c t.flags.v ∧ ArithEffect s t rd r ∧
      (t.flags.az = true ↔ r.toNat = 0) :=
  arithOp_result (IsDifference a b 0) (subWithCarry_isDifference a b true)

end Sys2Proof.Machine
end

section
/-! PROOFS. The statements on 41_alu_immediate.md. -/

open Sys2Proof Sys2Proof.Machine

/-- Settles O27: a compare with the word of the immediate's signed value. -/
theorem compareImmediateFlags : Obligations.CompareImmediateFlags := by
  intro s k rd
  obtain ⟨t, r, ht, heffect⟩ := compareOp_spec s (s.get rd) (sext8 k)
  exact ⟨t, sext8 k, r, ht, sext8_toInt k, heffect⟩

/-- Settles O30: both forms are the shared addition, of different operands. -/
theorem addFormsResult : Obligations.AddFormsResult := by
  refine fun s => ⟨fun k rd => ?_, fun rn rs rd => arithOp_add s rd (s.get rn) (s.get rs)⟩
  obtain ⟨t, r, ht, heffect⟩ := arithOp_add s rd (s.get rd) (zext8 k)
  exact ⟨t, zext8 k, r, ht, zext8_toNat k, heffect⟩

/-- Settles O31: both forms are the shared subtraction, of different operands. -/
theorem subFormsResult : Obligations.SubFormsResult := by
  refine fun s => ⟨fun k rd => ?_, fun rn rs rd => arithOp_sub s rd (s.get rn) (s.get rs)⟩
  obtain ⟨t, r, ht, heffect⟩ := arithOp_sub s rd (s.get rd) (zext8 k)
  exact ⟨t, zext8 k, r, ht, zext8_toNat k, heffect⟩

/-- Settles O34: each is the shared logical operation, of its own result. -/
theorem logicResults : Obligations.LogicResults := by
  intro s rd
  refine ⟨fun k => ?_, fun k => ?_, fun k => ?_, fun rn rs => ?_, fun rn rs => ?_,
    fun rn rs => ?_, fun rs => ?_, fun rs => ?_⟩ <;>
    refine exists_next_value (logicOp_spec s rd _) ?_
  · intro j hj
    rw [BitVec.getLsbD_and, zext8_getLsbD k hj]
  · intro j hj
    rw [BitVec.getLsbD_or, zext8_getLsbD k hj]
  · intro j hj
    rw [BitVec.getLsbD_xor, zext8_getLsbD k hj]
  · exact fun _ _ => BitVec.getLsbD_and
  · exact fun _ _ => BitVec.getLsbD_or
  · exact fun _ _ => BitVec.getLsbD_xor
  · exact BitVec.toNat_sub 0 (s.get rs)
  · exact toNat_not (s.get rs)

/-- Settles O35: each writes one register, with a value of its own. -/
theorem immediateMoves : Obligations.ImmediateMoves := by
  refine fun s rd => ⟨fun k => ?_, fun _ k => writeReg_spec s rd k 2, fun rs k => ?_⟩
  · exact exists_next_value (writeReg_spec s rd (sext8 k) 1) (sext8_toInt k)
  · exact exists_next_value (writeReg_spec s rd (s.get rs + k) 2) (BitVec.toNat_add _ _)

end

section
/-! SUPPORT. The byte loads by the number that the loaded word has: the byte's unsigned value after
`ld.zb`, its signed value after `ld.sb` (20_memory.md R57). -/

namespace Sys2Proof.Machine

/-- The zero extension is the one word with the byte's unsigned value. -/
theorem eq_zext8_of_toNat {z : Word} {b : Byte} (h : z.toNat = b.toNat) : z = zext8 b :=
  BitVec.eq_of_toNat_eq (h.trans (zext8_toNat b).symm)

/-- The sign extension is the one word with the byte's signed value. -/
theorem eq_sext8_of_toInt {g : Word} {b : Byte} (h : g.toInt = b.toInt) : g = sext8 b :=
  BitVec.eq_of_toInt_eq (h.trans (sext8_toInt b).symm)

theorem loadByteZero_of_toNat {s : State} {a z : Word} {b : Byte} (rd : Reg) (len : Word)
    (hz : z.toNat = b.toNat) (h : readByte s a = .next b) :
    ∃ t, loadByteZero s a rd len = .next t ∧ WritesReg s t rd z len := by
  rw [eq_zext8_of_toNat hz]
  exact loadByteZero_spec rd len h

theorem loadByteSign_of_toInt {s : State} {a g : Word} {b : Byte} (rd : Reg) (len : Word)
    (hg : g.toInt = b.toInt) (h : readByte s a = .next b) :
    ∃ t, loadByteSign s a rd len = .next t ∧ WritesReg s t rd g len := by
  rw [eq_sext8_of_toInt hg]
  exact loadByteSign_spec rd len h

end Sys2Proof.Machine
end

section
/-! PROOFS. The statements on 42_loadstore_imm_offset.md, whose rules the other addressing forms
share: each instruction is the shared access at its form's address, which `exec` computes from the
state before the instruction, with its form's length. -/

open Sys2Proof Sys2Proof.Machine

/-- Settles O46: the four forms are the shared word load, at the place of the address. -/
theorem wordLoads : Obligations.WordLoads :=
  fun _ _ _ rd hv =>
    ⟨fun _k _rs hp => loadWord_spec rd 1 hp hv, fun _rn _rs hp => loadWord_spec rd 1 hp hv,
     fun _x _a hp => loadWord_spec rd 2 hp hv, fun _rs _k hp => loadWord_spec rd 2 hp hv⟩

/-- Settles O47: the T4 form is a sign-extending load alone, the other three come with both
extensions. -/
theorem byteLoads : Obligations.ByteLoads :=
  fun _ rd _ _ _ hz hg =>
    ⟨fun _k _rs h => loadByteSign_of_toInt rd 1 hg h,
     fun _rn _rs h => ⟨loadByteZero_of_toNat rd 1 hz h, loadByteSign_of_toInt rd 1 hg h⟩,
     fun _x _a h => ⟨loadByteZero_of_toNat rd 2 hz h, loadByteSign_of_toInt rd 2 hg h⟩,
     fun _rs _k h => ⟨loadByteZero_of_toNat rd 2 hz h, loadByteSign_of_toInt rd 2 hg h⟩⟩

/-- Settles O48: the four forms are the shared word store, at the place of the address. -/
theorem wordStores : Obligations.WordStores :=
  fun _ _ rd hf =>
    ⟨fun _k _rs hp => storeWord_spec rd 1 hp hf, fun _rn _rs hp => storeWord_spec rd 1 hp hf,
     fun _x _a hp => storeWord_spec rd 2 hp hf, fun _rs _k hp => storeWord_spec rd 2 hp hf⟩

/-- Settles O49: the four forms are the shared byte store, at the address itself. -/
theorem byteStores : Obligations.ByteStores :=
  fun _ rd =>
    ⟨fun _k _rs h => storeByte_spec rd 1 h, fun _rn _rs h => storeByte_spec rd 1 h,
     fun _x _a h => storeByte_spec rd 2 h, fun _rs _k h => storeByte_spec rd 2 h⟩

end

section
/-! SUPPORT. The additions and subtractions that take AC in, and two of the operations on the halves of
a 32-bit word (10_state.md R29, R30, 43_three_register_alu.md R140 to R143). -/

namespace Sys2Proof.Machine

/-! ### The shared operation that takes AC in -/

/-- `arithOp_result` for an operation that takes AC in, whose AZ follows `AZ_CHAIN` (R27, R29, R30). -/
theorem arithChainedOp_result {s : State} {rd : Reg} {o : AddOut} (P : Word → Bool → Bool → Prop)
    (h : P o.result o.carry o.overflow) :
    ∃ t r, arithChainedOp s rd o = .next t ∧ P r t.flags.c t.flags.v ∧ ArithEffect s t rd r ∧
      ChainedAZ s.cfg.azChain s.flags.az r t.flags.az := by
  obtain ⟨t, ht, heffect, hc, hv, haz⟩ := arithChainedOp_spec s rd o
  refine ⟨t, o.result, ht, ?_, heffect, haz⟩
  rwa [hc, hv]

/-- `addWithCarry_isSum` with the carry in as the number of a flag. -/
theorem addWithCarry_isSum_flagNat (a b : Word) (f : Bool) :
    IsSum a b (flagNat f) (addWithCarry a b f).result (addWithCarry a b f).carry
      (addWithCarry a b f).overflow := by
  rw [flagNat_eq_toNat]
  exact addWithCarry_isSum a b f

/-- `subWithCarry_isDifference` with the flag that there is no borrow as a number. -/
theorem subWithCarry_isDifference_flagNat (a b : Word) (f : Bool) :
    IsDifference a b (1 - flagNat f) (subWithCarry a b f).result (subWithCarry a b f).carry
      (subWithCarry a b f).overflow := by
  rw [flagNat_eq_toNat]
  exact subWithCarry_isDifference a b f

/-! ### Two halves of 32 bits as numbers -/

section
variable {aHi aLo bHi bLo hi lo : Word} {c v c' v' : Bool}

/-- The high sum takes in the carry of the low one: together they are the 32-bit sum. -/
theorem IsSum.twoWords (hlow : IsSum aLo bLo 0 lo c v) (hhigh : IsSum aHi bHi (flagNat c) hi c' v') :
    (hi.toNat * 65536 + lo.toNat : Int) =
      ((aHi.toNat * 65536 + aLo.toNat : Int) + (bHi.toNat * 65536 + bLo.toNat)) % 4294967296 := by
  obtain ⟨hlo, hcarry, -⟩ := hlow
  obtain ⟨hhi, -, -⟩ := hhigh
  have ha := aLo.isLt
  have hb := bLo.isLt
  cases c <;> simp only [flagNat, Bool.false_eq_true, if_true, if_false, true_iff, false_iff]
    at hcarry hhi <;> omega

/-- The high difference takes in the borrow of the low one: together they are the 32-bit difference. -/
theorem IsDifference.twoWords (hlow : IsDifference aLo bLo 0 lo c v)
    (hhigh : IsDifference aHi bHi (1 - flagNat c) hi c' v') :
    (hi.toNat * 65536 + lo.toNat : Int) =
      ((aHi.toNat * 65536 + aLo.toNat : Int) - (bHi.toNat * 65536 + bLo.toNat)) % 4294967296 := by
  obtain ⟨hlo, hcarry, -⟩ := hlow
  obtain ⟨hhi, -, -⟩ := hhigh
  have ha := aLo.isLt
  have hb := bLo.isLt
  cases c <;> simp only [flagNat, Bool.false_eq_true, if_true, if_false, true_iff, false_iff]
    at hcarry hhi <;> omega

end

/-! ### From the low half to the high one -/

/-- What is known of the state an operation completes in holds of the state it did complete in. -/
theorem exists_of_eq_next {o : Res State} {t : State} {E : State → Word → Prop} (ht : o = .next t)
    (h : ∃ t r, o = .next t ∧ E t r) : ∃ r, E t r := by
  obtain ⟨t', r, ht', hE⟩ := h
  cases ht.symm.trans ht'
  exact ⟨r, hE⟩

theorem ArithEffect.get_ne {s t : State} {rd q : Reg} {r : Word} (h : ArithEffect s t rd r)
    (hq : q ≠ rd) : t.get q = s.get q := by
  obtain ⟨-, -, -, -, -, -, hframe⟩ := h
  exact hframe.regs q (by simpa using hq)

/-- A compare writes neither a register nor AC (10_state.md R27, R34). -/
theorem exec_cmprr_keeps {s t : State} {rs rd : Reg} (h : exec (.cmprr rs rd) s = .next t) :
    (∀ q, t.get q = s.get q) ∧ t.flags.ac = s.flags.ac := by
  have heffect := exec_effect h
  have hm : (Instr.cmprr rs rd).mnemonic = "cmprr" := rfl
  refine ⟨fun q => heffect.get_eq nofun fun _ => ?_, (heffect.ar_eq ?_).1⟩
  all_goals
    rw [hm]
    decide

/-- Two operations with a compare between them: both results stand at the end, and the second operation
finds the first one's C in AC and every register as it was but the first result's. -/
theorem ArithEffect.chain {s t u v : State} {rd rd' c1 c2 : Reg} {r r' : Word}
    (h : ArithEffect s t rd r) (hcmp : exec (.cmprr c1 c2) t = .next u)
    (h' : ArithEffect u v rd' r') (hd : rd' ≠ rd) :
    v.get rd = r ∧ v.get rd' = r' ∧ u.flags.ac = t.flags.c ∧ ∀ q, q ≠ rd → u.get q = s.get q := by
  obtain ⟨hregs, hac⟩ := exec_cmprr_keeps hcmp
  have hkeep : ∀ q, q ≠ rd → u.get q = s.get q := fun q hq => (hregs q).trans (h.get_ne hq)
  have hfirst : v.get rd = t.get rd := (h'.get_ne hd.symm).trans (hregs rd)
  obtain ⟨hrd, -, -, hc, -⟩ := h
  obtain ⟨hrd', -⟩ := h'
  exact ⟨hfirst.trans hrd, hrd', hac.trans hc, hkeep⟩

end Sys2Proof.Machine
end

section
/-! PROOFS. The statements on 43_three_register_alu.md. -/

open Sys2Proof Sys2Proof.Machine

/-- Settles O32: both are the shared chained operation, of the sum and of the difference with AC. -/
theorem carryChainResults : Obligations.CarryChainResults :=
  fun s rn rs _ =>
    ⟨arithChainedOp_result (IsSum (s.get rn) (s.get rs) (flagNat s.flags.ac))
      (addWithCarry_isSum_flagNat _ _ _),
     arithChainedOp_result (IsDifference (s.get rn) (s.get rs) (1 - flagNat s.flags.ac))
      (subWithCarry_isDifference_flagNat _ _ _)⟩

/-- Settles O33: AC hands the low operation's carry over the compare to the high one, which reads the
high operands as they were and leaves the low result. -/
theorem multiWordArithmetic : Obligations.MultiWordArithmetic := by
  intro s t u v rnLo rsLo rdLo rnHi rsHi rdHi c1 c2 hn hs hd hcmp
  refine ⟨fun hlow hhigh => ?_, fun hlow hhigh => ?_⟩
  · obtain ⟨lo, hlo, hlowEffect, -⟩ := exists_of_eq_next hlow ((addFormsResult s).2 rnLo rsLo rdLo)
    obtain ⟨hi, hhi, hhighEffect, -⟩ :=
      exists_of_eq_next hhigh (carryChainResults u rnHi rsHi rdHi).1
    obtain ⟨hvLo, hvHi, hac, hkeep⟩ := hlowEffect.chain hcmp hhighEffect hd
    rw [hac, hkeep rnHi hn.symm, hkeep rsHi hs.symm] at hhi
    rw [hvHi, hvLo]
    exact hlo.twoWords hhi
  · obtain ⟨lo, hlo, hlowEffect, -⟩ := exists_of_eq_next hlow ((subFormsResult s).2 rnLo rsLo rdLo)
    obtain ⟨hi, hhi, hhighEffect, -⟩ :=
      exists_of_eq_next hhigh (carryChainResults u rnHi rsHi rdHi).2
    obtain ⟨hvLo, hvHi, hac, hkeep⟩ := hlowEffect.chain hcmp hhighEffect hd
    rw [hac, hkeep rnHi hn.symm, hkeep rsHi hs.symm] at hhi
    rw [hvHi, hvLo]
    exact hlo.twoWords hhi

end

section
/-! SUPPORT. The writes of one of two values by a condition on the SR flags (10_state.md R31,
45_select_set.md R160, R161). -/

namespace Sys2Proof.Machine

theorem exec_selectInstr (cc : Cond) (rn rs rd : Reg) (s : State) :
    exec (selectInstr cc rn rs rd) s = selectOp cc rn rs rd s := by
  cases cc <;> rfl

theorem exec_setInstr (cc : Cond) (x : BitVec 3) (rd : Reg) (s : State) :
    exec (setInstr cc x rd) s = setOp cc rd s := by
  cases cc <;> rfl

/-- What a write by a condition leaves, of what is known of its two values: `P` of the one it writes
where the condition holds, `Q` of the other. -/
theorem writeReg_byCondition (cc : Cond) (s : State) (rd : Reg) {a b : Word} {P Q : Word → Prop}
    (ha : P a) (hb : Q b) :
    ∃ t v, writeReg s rd (if condHolds cc s.flags then a else b) 1 = .next t ∧
      WritesReg s t rd v 1 ∧ (CondTests cc s.flags → P v) ∧ (¬ CondTests cc s.flags → Q v) := by
  by_cases h : CondTests cc s.flags
  · rw [if_pos ((condHolds_iff cc s.flags).2 h)]
    exact exists_next_value (writeReg_spec s rd a 1) ⟨fun _ => ha, fun hn => absurd h hn⟩
  · rw [if_neg (mt (condHolds_iff cc s.flags).1 h)]
    exact exists_next_value (writeReg_spec s rd b 1) ⟨fun ht => absurd ht h, fun _ => hb⟩

end Sys2Proof.Machine
end

section
/-! PROOFS. The statements on 45_select_set.md. -/

open Sys2Proof Sys2Proof.Machine

/-- Settles O38: the write by the condition, of Rn and Rs as they were. -/
theorem selectByCondition : Obligations.SelectByCondition := by
  intro s cc rn rs rd
  rw [exec_selectInstr]
  exact writeReg_byCondition (P := (· = s.get rn)) (Q := (· = s.get rs)) cc s rd rfl rfl

/-- Settles O39: the write by the condition, of the words of 1 and 0. -/
theorem setByCondition : Obligations.SetByCondition := by
  intro s cc x rd
  rw [exec_setInstr]
  exact writeReg_byCondition (P := (·.toNat = 1)) (Q := (·.toNat = 0)) cc s rd rfl rfl

end

section
/-! SUPPORT. The zero-operand instructions, as the writes of the state that they are
(46_zero_operand_call_absolute.md R170, R172 to R174). -/

namespace Sys2Proof.Machine

theorem State.setI_frame (s : State) (b : Bool) : Frame [] [] s (s.setI b) :=
  .of_fields (fun _ _ => rfl) rfl rfl rfl rfl

/-- A jump at the end leaves unchanged what was unchanged before it. -/
theorem Frame.setPc {l : List Reg} {m : List Word} {s t : State} (h : Frame l m s t)
    (target : Word) : Frame l m s (t.setPc target) :=
  h.trans (.of_fields (fun _ _ => rfl) rfl rfl rfl rfl) (fun _ => id) (fun _ => id)

theorem exec_dint (x : BitVec 6) (s : State) :
    exec (.dint x) s = .next ((s.setI false).advance 1) := rfl

theorem exec_eint (x : BitVec 6) (s : State) :
    exec (.eint x) s = .next ((s.setI true).advance 1) := rfl

theorem exec_reti_of_noDelivery {s : State} (x : BitVec 6) (h : s.cfg.irqModel = .noDelivery) :
    exec (.reti x) s = .refused .retiNotSpecified := by
  simp only [exec, execReti, h]

/-- An instruction that sets I to a bit and goes on to the next word changes nothing else. -/
theorem setI_advance_writes_i (s : State) (b : Bool) {o : Res State}
    (h : o = .next ((s.setI b).advance 1)) :
    ∃ t, o = .next t ∧ t.flags = { s.flags with i := b } ∧ t.draws = s.draws ∧
      t.pc = s.pc + 1 ∧ Frame [] [] s t :=
  ⟨_, h, rfl, rfl, rfl, (s.setI_frame b).setPc _⟩

end Sys2Proof.Machine
end

section
/-! PROOFS. The statements on 46_zero_operand_call_absolute.md. -/

open Sys2Proof Sys2Proof.Machine

/-- Settles O21: a `ret` that finds its word moves SP and jumps, two writes of the state. -/
theorem retPopsProgramCounter : Obligations.RetPopsProgramCounter := by
  intro s x p v hp hv
  have hsp : ((s.set .sp (s.get .sp + 2)).setPc v).get .sp = s.get .sp + 2 :=
    State.get_set_same s .sp _
  exact ⟨_, exec_ret x hp hv, rfl, hsp, ⟨rfl, rfl⟩, (s.set_frame .sp _).setPc v⟩

/-- Settles O16: the interrupt model is all that `reti` asks before it is refused. -/
theorem retiRefusedWithoutInterrupts : Obligations.RetiRefusedWithoutInterrupts :=
  fun _ x h => exec_reti_of_noDelivery x h

/-- Settles O44: both instructions are one write of I, by its two values. -/
theorem dintEintWriteI : Obligations.DintEintWriteI := fun s x =>
  ⟨setI_advance_writes_i s false (exec_dint x s), setI_advance_writes_i s true (exec_eint x s)⟩

end

section
/-! SUPPORT. Decoding to an instruction of one word, and SRAR as a number (30_encoding.md R103,
10_state.md R25). -/

namespace Sys2Proof

/-- A word decodes to an instruction of one word exactly where it is the word encoded. -/
theorem decode_eq_iff_of_one {i : Instr} {v : Word} (he : encode i = [v])
    (h : i.secondWord = none) (w k : Word) : decode w k = i ↔ w = v := by
  have first_eq {u : Word} (hu : EncodesAs i u) : u = v :=
    (List.cons.inj (hu.symm.trans he)).1
  constructor
  · rintro rfl
    exact first_eq (encodesAs_decode w k)
  · rintro rfl
    obtain ⟨u, hu, hd⟩ := exists_firstWord i
    obtain rfl := first_eq hu
    rw [hd, Instr.withSecondWord_of_none h]

end Sys2Proof

namespace Sys2Proof.Machine

/-- A bit set where there was a 0 adds the power of two of its position. -/
theorem setBit_toNat {w : Word} {p : Fin 16} (b : Bool) (h : w.getLsbD p.val = false) :
    (setBit w p b).toNat = w.toNat + 2 ^ p.val * flagNat b := by
  have hlt : 2 ^ p.val < 2 ^ 16 := Nat.pow_lt_pow_right (by omega) p.isLt
  cases b with
  | false =>
    have hkeep : setBit w p false = w := by
      ext j hj
      rw [← BitVec.getLsbD_eq_getElem, ← BitVec.getLsbD_eq_getElem, setBit_getLsbD w p false j hj]
      split
      · subst j
        exact h.symm
      · rfl
    rw [hkeep]
    rfl
  | true =>
    have hand : w &&& BitVec.twoPow 16 p.val = 0#16 := by
      rw [BitVec.and_twoPow, h]
      rfl
    show (w ||| BitVec.twoPow 16 p.val).toNat = w.toNat + 2 ^ p.val * 1
    rw [← BitVec.add_eq_or_of_and_eq_zero _ _ hand, BitVec.toNat_add_of_and_eq_zero hand,
      BitVec.toNat_twoPow, Nat.mod_eq_of_lt hlt, Nat.mul_one]

/-- With distinct positions SRAR is the sum of the flags at the weights of their positions. -/
theorem packSrar_toNat (l : SrarLayout) (f : Flags) (h : l.distinct = true) :
    (packSrar l f).toNat = 2 ^ l.i.val * flagNat f.i + 2 ^ l.v.val * flagNat f.v +
      2 ^ l.s.val * flagNat f.s + 2 ^ l.c.val * flagNat f.c + 2 ^ l.z.val * flagNat f.z +
      2 ^ l.ac.val * flagNat f.ac + 2 ^ l.az.val * flagNat f.az := by
  obtain ⟨i, v, s, c, z, ac, az⟩ := l
  simp only [SrarLayout.distinct, decide_eq_true_eq, List.nodup_cons, List.mem_cons,
    List.not_mem_nil, or_false, not_or, Fin.ext_iff] at h
  obtain ⟨hi, hv, hs, hc, hz, hac, -⟩ := h
  simp only [packSrar]
  rw [setBit_toNat, setBit_toNat, setBit_toNat, setBit_toNat, setBit_toNat, setBit_toNat,
    setBit_toNat]
  · rw [BitVec.ofNat_eq_ofNat, BitVec.toNat_ofNat, Nat.zero_mod, Nat.zero_add]
  · exact BitVec.getLsbD_zero
  -- The flags set before a flag stand at other positions, so its own still holds the first 0.
  all_goals
    simp only [setBit_getLsbD, Fin.isLt]
    grind

/-- SRAR in the default layout as a number (10_state.md R25). -/
theorem packSrar_default_toNat (f : Flags) :
    (packSrar ⟨6, 5, 4, 3, 2, 1, 0⟩ f).toNat = flagNat f.az + 2 * flagNat f.ac +
      4 * flagNat f.z + 8 * flagNat f.c + 16 * flagNat f.s + 32 * flagNat f.v +
      64 * flagNat f.i := by
  rw [packSrar_toNat _ _ (by decide)]
  show 2 ^ 6 * _ + 2 ^ 5 * _ + 2 ^ 4 * _ + 2 ^ 3 * _ + 2 ^ 2 * _ + 2 ^ 1 * _ + 2 ^ 0 * _ = _
  omega

end Sys2Proof.Machine
end

section
/-! SUPPORT. The single-register instructions, as the operations on the state that they are
(47_single_register_word_immediate.md R180 to R185). -/

namespace Sys2Proof.Machine

theorem encode_jmpreg (x : BitVec 3) (rd : Reg) : encode (.jmpreg x rd) = [encodeT9 0 0 x rd] :=
  rfl

theorem decode_eq_jmpreg_iff (w k : Word) (x : BitVec 3) (rd : Reg) :
    decode w k = .jmpreg x rd ↔ w.toNat = 0x0100 + 8 * x.toNat + rd.toBits.toNat := by
  have hn : (encodeT9 0 0 x rd).toNat = 0x0100 + 8 * x.toNat + rd.toBits.toNat := by
    simp only [encodeT9_toNat, BitVec.ofNat_eq_ofNat, BitVec.toNat_ofNat]
    omega
  rw [decode_eq_iff_of_one (encode_jmpreg x rd) rfl, ← hn, BitVec.toNat_inj]

theorem exec_jmpreg (x : BitVec 3) (rd : Reg) (s : State) :
    exec (.jmpreg x rd) s = .next (s.setPc (s.get rd)) := rfl

theorem exec_push_sp (x : BitVec 3) (s : State) :
    exec (.push x .sp) s = .refused .pushSpNotSpecified := rfl

theorem exec_pop_sp (x : BitVec 3) (s : State) :
    exec (.pop x .sp) s = .refused .popSpNotSpecified := rfl

theorem exec_push_of_ne {rd : Reg} {s t : State} (x : BitVec 3) (h : rd ≠ .sp)
    (hpush : pushWord s (s.get rd) = .next t) : exec (.push x rd) s = .next (t.advance 1) := by
  simp only [exec, execPush, if_neg h, hpush, andThen_next]

theorem exec_pop_of_ne {rd : Reg} {s t : State} {v : Word} (x : BitVec 3) (h : rd ≠ .sp)
    (hpop : popWord s = .next (v, t)) :
    exec (.pop x rd) s = .next ((t.set rd v).advance 1) := by
  simp only [exec, execPop, if_neg h, hpop, andThen_next]

theorem exec_movSr (x : BitVec 3) (rd : Reg) (s : State) :
    exec (.movSr x rd) s = writeReg s rd (packSrar s.cfg.srarLayout s.flags) 1 := rfl

theorem exec_movrS (x : BitVec 3) (rd : Reg) (s : State) :
    exec (.movrS x rd) s =
      .next ((s.setFlags (unpackSrar s.cfg.srarLayout (s.get rd))).advance 1) := rfl

theorem State.setFlags_frame (s : State) (f : Flags) : Frame [] [] s (s.setFlags f) :=
  .of_fields (fun _ _ => rfl) rfl rfl rfl rfl

/-- The place of a word access is one address (20_memory.md R53). -/
theorem PerformedAt.unique {s : State} {a p q : Word} (hp : PerformedAt s a p)
    (hq : PerformedAt s a q) : p = q :=
  Host.Outcome.next.inj ((wordPlace_eq_next.2 hp).symm.trans (wordPlace_eq_next.2 hq))

end Sys2Proof.Machine
end

section
/-! PROOFS. The statements on 47_single_register_word_immediate.md. -/

open Sys2Proof Sys2Proof.Machine

/-- Settles O23: a push at the one place of its access, and then `pc` goes on. -/
theorem pushStoresBelow : Obligations.PushStoresBelow := by
  intro s x rd p hrd hp hf
  have hpush := pushWord_eq_next (v := s.get rd).2 ⟨p, hp, hf, rfl⟩
  obtain ⟨q, hq, -, hword, hsp, hpc, hflags, hframe⟩ := pushWord_spec hpush
  obtain rfl := hp.unique hq
  exact ⟨_, exec_push_of_ne x hrd hpush, hword, hsp,
    congrArg (· + 1) hpc, hflags, hframe.setPc _⟩

/-- Settles O24: a pop, then the write of Rd, which leaves SP. -/
theorem popLoadsAndIncrements : Obligations.PopLoadsAndIncrements := by
  intro s x rd p v hrd hp hv
  have hpop := popWord_eq_next.2 ⟨p, hp, hv, rfl⟩
  have hsp : ((s.set .sp (s.get .sp + 2)).set rd v).get .sp = s.get .sp + 2 := by
    rw [State.get_set_ne _ v hrd.symm, State.get_set_same]
  have hframe : Frame [rd, .sp] [] s ((s.set .sp (s.get .sp + 2)).set rd v) := by
    refine .of_fields (fun r hr => ?_) rfl rfl rfl rfl
    simp only [List.mem_cons, List.not_mem_nil, or_false, not_or] at hr
    obtain ⟨hne, hnsp⟩ := hr
    rw [State.get_set_ne _ v hne, State.get_set_ne s _ hnsp]
  exact ⟨_, exec_pop_of_ne x hrd hpop, State.get_set_same _ rd v, hsp,
    rfl, ⟨rfl, rfl⟩, hframe.setPc _⟩

/-- Settles O41: one register write, of the word that SRAR is bit by bit and as a number. -/
theorem movSrarToRegister : Obligations.MovSrarToRegister := by
  intro s x rd
  rw [exec_movSr]
  refine exists_next_value (writeReg_spec s rd _ 1) ⟨packSrar_getLsbD _ _, fun hl => ?_⟩
  rw [hl, packSrar_default_toNat]

/-- Settles O18: one word of T9 and no other, and a jump that writes `pc` alone. -/
theorem jmpregTarget : Obligations.JmpregTarget := by
  refine fun s x rd => ⟨?_, fun w k => decode_eq_jmpreg_iff w k x rd,
    _, exec_jmpreg x rd s, rfl, s.setPc_keepsFlags _, s.setPc_frame _⟩
  have hn : (encodeT9 0 0 0 rd).toNat = 0x0100 + rd.toBits.toNat := by
    simp [encodeT9_toNat]
  rw [encode_jmpreg, ← hn, BitVec.ofNat_toNat, BitVec.setWidth_eq]

/-- Settles O25: SP is the one register that `push` and `pop` refuse, before any access. -/
theorem pushSpPopSpRefused : Obligations.PushSpPopSpRefused :=
  fun s x => ⟨exec_push_sp x s, exec_pop_sp x s⟩

/-- Settles O42: one write of all seven flags from the word of Rd. -/
theorem movRegisterToSrar : Obligations.MovRegisterToSrar :=
  fun s x rd => ⟨_, exec_movrS x rd s, rfl, rfl, rfl, rfl, rfl, rfl, rfl, rfl, rfl,
    (s.setFlags_frame _).setPc _⟩

end

section
/-! SUPPORT. The words that the two-register moves and shifts write, in exact numbers, and the load
from program memory (48_two_register.md R202 to R206, R210 to R212). -/

namespace Sys2Proof.Machine

/-! ### Values -/

theorem lowByte_eq_ofNat (w : Word) : lowByte w = BitVec.ofNat 8 w.toNat :=
  BitVec.eq_of_toNat_eq ((lowByte_toNat w).trans (BitVec.toNat_ofNat w.toNat 8).symm)

theorem zext8_lowByte_toNat (w : Word) : (zext8 (lowByte w)).toNat = w.toNat % 256 :=
  (zext8_toNat _).trans (lowByte_toNat w)

theorem sext8_lowByte_toInt (w : Word) :
    (sext8 (lowByte w)).toInt = (BitVec.ofNat 8 w.toNat).toInt := by
  rw [sext8_toInt, lowByte_eq_ofNat]

/-- The low byte put above the high one (R204). -/
theorem lowByte_append_highByte_toNat (w : Word) :
    (lowByte w ++ highByte w).toNat = w.toNat % 256 * 256 + w.toNat / 256 := by
  rw [toNat_append, lowByte_toNat, highByte_toNat]
  rfl

/-- Bit 15 in all 16 places is -1 or 0, by the sign (R205). -/
theorem signWord_toInt (w : Word) :
    (if w.msb then (0xFFFF : Word) else 0x0000).toInt = if w.toInt < 0 then -1 else 0 := by
  rw [BitVec.msb_eq_toInt]
  by_cases h : w.toInt < 0
  · rw [if_pos h, if_pos (decide_eq_true h)]
    rfl
  · rw [if_neg h, if_neg (mt of_decide_eq_true h)]
    rfl

theorem ushiftRight_one_toNat (w : Word) : (w >>> 1).toNat = w.toNat / 2 := by
  rw [BitVec.toNat_ushiftRight, Nat.shiftRight_eq_div_pow, Nat.pow_one]

theorem shiftLeft_one_toNat (w : Word) : (w <<< 1).toNat = w.toNat * 2 % 65536 := by
  rw [BitVec.toNat_shiftLeft, Nat.shiftLeft_eq, Nat.pow_one]

/-- Shifting right and keeping bit 15 is the arithmetic shift (R212). -/
theorem ushiftRight_one_or_sign (w : Word) : (w >>> 1) ||| (w &&& 0x8000) = w.sshiftRight 1 := by
  have hmask : (0x8000 : Word) = BitVec.twoPow 16 15 := rfl
  ext j hj
  rw [hmask, BitVec.getElem_sshiftRight]
  by_cases h : j = 15
  · subst h
    simp [BitVec.msb_eq_getLsbD_last]
  · have h1 : 1 + j < 16 := by omega
    simp [h, h1]

theorem sshiftRight_one_toInt (w : Word) : (w.sshiftRight 1).toInt = w.toInt / 2 := by
  rw [BitVec.toInt_sshiftRight, Int.shiftRight_eq_div_pow]
  rfl

/-! ### The load from program memory (R206) -/

theorem exec_mov16pr (rs rd : Reg) (s : State) :
    exec (.mov16pr rs rd) s = andThen (readProg s (s.get rs)) fun w => writeReg s rd w 1 := rfl

theorem exec_mov16pr_of_next {s : State} {rs : Reg} {v : Word} (rd : Reg)
    (h : readProg s (s.get rs) = .next v) :
    exec (.mov16pr rs rd) s = writeReg s rd v 1 := by
  rw [exec_mov16pr, h, andThen_next]

theorem exec_mov16pr_of_fault {s : State} {rs : Reg} {e : Fault} (rd : Reg)
    (h : readProg s (s.get rs) = .fault e) : exec (.mov16pr rs rd) s = .fault e := by
  rw [exec_mov16pr, h, andThen_fault]

end Sys2Proof.Machine
end

section
/-! PROOFS. The statements on 48_two_register.md. -/

open Sys2Proof Sys2Proof.Machine

/-- Settles O28: the shared compare, of the two registers in the order of `CMPRR_LEFT`. -/
theorem compareRegisterFlags : Obligations.CompareRegisterFlags := by
  intro s rs rd
  cases hl : s.cfg.cmprrLeft with
  | rd =>
    obtain ⟨t, r, ht, hdiff, heffect⟩ := compareOp_spec s (s.get rd) (s.get rs)
    exact ⟨t, r, (execCmprr_of_rd hl).trans ht, fun _ => hdiff, nofun, heffect⟩
  | rs =>
    obtain ⟨t, r, ht, hdiff, heffect⟩ := compareOp_spec s (s.get rs) (s.get rd)
    exact ⟨t, r, (execCmprr_of_rs hl).trans ht, nofun, fun _ => hdiff, heffect⟩

/-- Settles O36: each writes one register, with a value of its own. -/
theorem twoRegisterMoves : Obligations.TwoRegisterMoves := by
  refine fun s rs rd => ⟨writeReg_spec s rd (s.get rs) 1, ?_, ?_, ?_, ?_⟩ <;>
    refine exists_next_value (writeReg_spec s rd _ 1) ?_
  · exact zext8_lowByte_toNat (s.get rs)
  · exact sext8_lowByte_toInt (s.get rs)
  · exact lowByte_append_highByte_toNat (s.get rs)
  · exact signWord_toInt (s.get rs)

/-- Settles O37: each writes one register; the shift of `asr` is the signed one. -/
theorem shiftsByOne : Obligations.ShiftsByOne := by
  refine fun s rs rd => ⟨?_, ?_, ?_⟩ <;> refine exists_next_value (writeReg_spec s rd _ 1) ?_
  · exact ushiftRight_one_toNat (s.get rs)
  · exact shiftLeft_one_toNat (s.get rs)
  · rw [ushiftRight_one_or_sign]
    exact sshiftRight_one_toInt (s.get rs)

/-- Settles O40: the read of program memory gives the word or faults, before anything is written. -/
theorem loadProgramWord : Obligations.LoadProgramWord := by
  refine fun s rs rd => ⟨fun v hv => ?_, fun hin hnone => ?_⟩
  · rw [exec_mov16pr_of_next rd hv]
    exact writeReg_spec s rd v 1
  · exact exec_mov16pr_of_fault rd (readProg_eq_fault.2 ⟨hin, hnone⟩)

end

section
/-! SUPPORT. The environment is inert (60_exceptions.md R236): an instruction reads neither the
offers of a request nor, `reti` apart, the `IRQ_MODEL`, and carries both along. -/

namespace Sys2Proof.Machine

/-! ### The environment of a state -/

/-- The state with its `IRQ_MODEL` and the environment's offers mapped. -/
def State.mapEnv (s : State) (g : IrqModel → IrqModel) (o : List Bool → List Bool) : State :=
  (s.withIrqModel (g s.cfg.irqModel)).withOffers (o s.irqOffers)

theorem State.mapEnv_id_const (s : State) (l : List Bool) :
    s.mapEnv id (fun _ => l) = s.withOffers l := rfl

theorem State.mapEnv_const_id (s : State) (m : IrqModel) :
    s.mapEnv (fun _ => m) id = s.withIrqModel m := rfl

/-- The offers that remain when a boundary is passed with I at a value: those `passOffer` leaves. -/
def offersAfter (i : Bool) (offers : List Bool) : List Bool :=
  match offers with
  | [] => []
  | true :: rest => if i then rest else offers
  | false :: rest => rest

theorem passOffer_eq_withOffers (s : State) :
    passOffer s = s.withOffers (offersAfter s.flags.i s.irqOffers) := by
  cases ho : s.irqOffers with
  | nil =>
    rw [passOffer_of_nil ho, offersAfter, ← ho]
    rfl
  | cons offer rest =>
    cases offer with
    | false => exact passOffer_of_noOffer ho
    | true =>
      cases hi : s.flags.i with
      | false =>
        rw [passOffer_of_held ho hi]
        show s = s.withOffers (true :: rest)
        rw [← ho]
        rfl
      | true => exact passOffer_of_behind ho hi

theorem passOffer_withIrqModel (s : State) (m : IrqModel) :
    passOffer (s.withIrqModel m) = (passOffer s).withIrqModel m := by
  rw [passOffer_eq_withOffers, passOffer_eq_withOffers]
  rfl

/-! ### The shared operations -/

/-- Operations after each other, the last of which carries along what is done to its state. -/
theorem andThen_carried {α : Type} {r : Res α} {f f' : α → Res State} {k : State → Res State}
    (hf : ∀ a, f' a = andThen (f a) k) : andThen r f' = andThen (andThen r f) k := by
  rw [andThen_assoc, funext hf]

section
variable (s : State) (g : IrqModel → IrqModel) (o : List Bool → List Bool)

/-- Two operations after each other that both carry the environment along. -/
theorem andThen_mapEnv {r r' : Res State} {f f' : State → Res State}
    (hr : r' = andThen r fun t => .next (t.mapEnv g o))
    (hf : ∀ t, f' (t.mapEnv g o) = andThen (f t) fun u => .next (u.mapEnv g o)) :
    andThen r' f' = andThen (andThen r f) fun t => .next (t.mapEnv g o) := by
  rw [hr, andThen_assoc]
  exact andThen_carried hf

theorem writeByte_mapEnv (a : Word) (b : Byte) :
    writeByte (s.mapEnv g o) a b = andThen (writeByte s a b) fun t => .next (t.mapEnv g o) := by
  show (if s.inData a 1 then _ else _) = andThen (if s.inData a 1 then _ else _) _
  split <;> rfl

theorem writeWord_mapEnv (a v : Word) :
    writeWord (s.mapEnv g o) a v = andThen (writeWord s a v) fun t => .next (t.mapEnv g o) := by
  refine andThen_carried (r := wordPlace s a) fun p => ?_
  show (if s.inData p 2 then _ else _) = andThen (if s.inData p 2 then _ else _) _
  split
  · exact andThen_mapEnv g o (writeByte_mapEnv s g o p _) fun t => writeByte_mapEnv t g o _ _
  · rfl

theorem pushWord_mapEnv (v : Word) :
    pushWord (s.mapEnv g o) v = andThen (pushWord s v) fun t => .next (t.mapEnv g o) :=
  andThen_mapEnv g o (writeWord_mapEnv s g o _ v) fun _ => rfl

theorem callOp_mapEnv (target len : Word) :
    callOp (s.mapEnv g o) target len =
      andThen (callOp s target len) fun t => .next (t.mapEnv g o) :=
  andThen_mapEnv g o (pushWord_mapEnv s g o _) fun _ => rfl

/-- What follows a pop carries the environment along where it does so of the state after the pop. -/
theorem popWord_mapEnv {f f' : Word × State → Res State}
    (hf : ∀ v t, f' (v, t.mapEnv g o) = andThen (f (v, t)) fun u => .next (u.mapEnv g o)) :
    andThen (popWord (s.mapEnv g o)) f' =
      andThen (andThen (popWord s) f) fun t => .next (t.mapEnv g o) := by
  rw [popWord_andThen, popWord_andThen]
  exact andThen_carried (r := readWord s (s.get .sp)) fun v => hf v (s.set .sp (s.get .sp + 2))

theorem interruptReturn_mapEnv :
    interruptReturn (s.mapEnv g o) =
      andThen (interruptReturn s) fun t => .next (t.mapEnv g o) :=
  popWord_mapEnv s g o fun w t =>
    popWord_mapEnv (t.setFlags (unpackSrar s.cfg.srarLayout w)) g o fun _ _ => rfl

theorem logicOp_mapEnv (rd : Reg) (r : Word) :
    logicOp (s.mapEnv g o) rd r = andThen (logicOp s rd r) fun t => .next (t.mapEnv g o) := by
  have h : logicFlags (s.mapEnv g o) r = (logicFlags s r).mapEnv g o := by
    have hcv : (s.mapEnv g o).cfg.logicCV = s.cfg.logicCV := rfl
    unfold logicFlags
    rw [hcv]
    cases s.cfg.logicCV <;> rfl
  simp only [logicOp, h]
  rfl

theorem branchOp_mapEnv (cc : Cond) (a : BitVec 10) :
    branchOp cc a (s.mapEnv g o) =
      andThen (branchOp cc a s) fun t => .next (t.mapEnv g o) := by
  show (if condHolds cc s.flags then _ else _) = andThen (if condHolds cc s.flags then _ else _) _
  split <;> rfl

theorem execPush_mapEnv (rd : Reg) :
    execPush rd (s.mapEnv g o) = andThen (execPush rd s) fun t => .next (t.mapEnv g o) := by
  unfold execPush
  split
  · rfl
  · exact andThen_mapEnv g o (pushWord_mapEnv s g o _) fun _ => rfl

theorem execPop_mapEnv (rd : Reg) :
    execPop rd (s.mapEnv g o) = andThen (execPop rd s) fun t => .next (t.mapEnv g o) := by
  unfold execPop
  split
  · rfl
  · exact popWord_mapEnv s g o fun _ _ => rfl

theorem execCmprr_mapEnv (rs rd : Reg) :
    execCmprr rs rd (s.mapEnv g o) =
      andThen (execCmprr rs rd s) fun t => .next (t.mapEnv g o) := by
  cases hl : s.cfg.cmprrLeft with
  | rd => exact (execCmprr_of_rd (s := s.mapEnv g o) hl).trans (execCmprr_of_rd hl ▸ rfl)
  | rs => exact (execCmprr_of_rs (s := s.mapEnv g o) hl).trans (execCmprr_of_rs hl ▸ rfl)

end

/-! ### The instructions -/

theorem exec_reti_of_candidateA {s : State} {vector : Word} (x : BitVec 6)
    (h : s.cfg.irqModel = .candidateA vector) : exec (.reti x) s = interruptReturn s := by
  simp only [exec, execReti, h]

/-- `reti` does by the `IRQ_MODEL` what it does, whatever the environment offers. -/
theorem exec_reti_mapEnv (s : State) (o : List Bool → List Bool) (x : BitVec 6) :
    exec (.reti x) (s.mapEnv id o) =
      andThen (exec (.reti x) s) fun t => .next (t.mapEnv id o) := by
  cases hm : s.cfg.irqModel with
  | noDelivery =>
    rw [exec_reti_of_noDelivery x hm, exec_reti_of_noDelivery (s := s.mapEnv id o) x hm]
    rfl
  | candidateA vector =>
    rw [exec_reti_of_candidateA x hm, exec_reti_of_candidateA (s := s.mapEnv id o) x hm]
    exact interruptReturn_mapEnv s id o

/-- An instruction does the same whatever the environment offers and, unless it is `reti`, under
every `IRQ_MODEL`. -/
theorem exec_mapEnv {i : Instr} (s : State) (g : IrqModel → IrqModel) (o : List Bool → List Bool)
    (hm : i.mnemonic ∉ ["reti"] ∨ g = id) :
    exec i (s.mapEnv g o) = andThen (exec i s) fun t => .next (t.mapEnv g o) := by
  cases i with
  | reti x =>
    obtain rfl : g = id := hm.resolve_left (absurd (mnemonic_mem rfl))
    exact exec_reti_mapEnv s o x
  | breq | brne | bruge | brult | brlt | brge | brugt | brgt => exact branchOp_mapEnv s g o _ _
  | callrel | calladr | callreg => exact callOp_mapEnv s g o _ _
  | cmprr => exact execCmprr_mapEnv s g o _ _
  | andkr | orkr | xorkr | andrrr | orrrr | xorrrr | neg | notrr => exact logicOp_mapEnv s g o _ _
  | mov16mr | movs8mr | mov16nr | mov8znr | mov8snr | mov16ar | mov8zar | mov8sar
  | mov16Mr | mov8zMr | mov8sMr | mov16pr => exact andThen_carried fun _ => rfl
  | mov16rm | mov16rn | mov16ra | mov16rM =>
    exact andThen_mapEnv g o (writeWord_mapEnv s g o _ _) fun _ => rfl
  | mov8rm | mov8rn | mov8ra | mov8rM =>
    exact andThen_mapEnv g o (writeByte_mapEnv s g o _ _) fun _ => rfl
  | push => exact execPush_mapEnv s g o _
  | pop => exact execPop_mapEnv s g o _
  | ret => exact popWord_mapEnv s g o fun _ _ => rfl
  -- The rest complete in every state, with values the environment has no part in, or are reserved.
  | _ => rfl

theorem exec_withOffers (i : Instr) (s : State) (l : List Bool) :
    exec i (s.withOffers l) = andThen (exec i s) fun t => .next (t.withOffers l) :=
  exec_mapEnv s id (fun _ => l) (.inr rfl)

/-- What an instruction does under `IRQ_MODEL = none` it does under any: `reti` has no meaning
there. -/
theorem exec_withIrqModel {i : Instr} {s t : State} (m : IrqModel)
    (h0 : s.cfg.irqModel = .noDelivery) (h : exec i s = .next t) :
    exec i (s.withIrqModel m) = .next (t.withIrqModel m) := by
  have hi : i.mnemonic ∉ ["reti"] := by
    intro hi
    cases i with
    | reti x =>
      rw [exec_reti_of_noDelivery x h0] at h
      cases h
    | _ => cases List.contains_iff_mem.2 hi
  rw [← State.mapEnv_const_id, exec_mapEnv s _ _ (.inl hi), h, andThen_next,
    State.mapEnv_const_id]

/-! ### The step and the run -/

/-- A fetch reads neither the `IRQ_MODEL` nor the environment's offers. -/
theorem fetchInstr_mapEnv (s : State) (g : IrqModel → IrqModel) (o : List Bool → List Bool) :
    fetchInstr (s.mapEnv g o) = fetchInstr s := rfl

/-- Under `IRQ_MODEL = none` other offers change a step in nothing but the offers. -/
theorem step_withOffers {s : State} (l : List Bool) (h : s.cfg.irqModel = .noDelivery) :
    step (s.withOffers l) =
      andThen (step s) fun t => .next (t.withOffers (offersAfter s.flags.i l)) := by
  have hdue : interruptDue s = none := interruptDue_none_of_noDelivery h
  have hdue' : interruptDue (s.withOffers l) = none := interruptDue_none_of_noDelivery h
  have hpass : passOffer (s.withOffers l) = (passOffer s).withOffers (offersAfter s.flags.i l) := by
    rw [passOffer_eq_withOffers, passOffer_eq_withOffers]
    rfl
  rw [step_of_notDue hdue, step_of_notDue hdue', hpass, ← State.mapEnv_id_const s,
    fetchInstr_mapEnv]
  exact andThen_carried fun i => exec_withOffers i (passOffer s) _

/-- Where no request is raised while I = 1, a step under `IRQ_MODEL = none` is one under any. -/
theorem step_withIrqModel {s t : State} (m : IrqModel) (h0 : s.cfg.irqModel = .noDelivery)
    (hq : ¬ RequestWhileEnabled s) (h : step s = .next t) :
    step (s.withIrqModel m) = .next (t.withIrqModel m) := by
  have hdue' : interruptDue (s.withIrqModel m) = none := interruptDue_none_of_quiet hq
  rw [step_of_notDue (interruptDue_none_of_noDelivery h0)] at h
  obtain ⟨i, hi, ht⟩ := andThen_eq_next.1 h
  rw [step_of_notDue hdue', ← State.mapEnv_const_id s, fetchInstr_mapEnv, hi, andThen_next,
    State.mapEnv_const_id, passOffer_withIrqModel]
  exact exec_withIrqModel m ((congrArg Config.irqModel (passOffer_cfg s)).trans h0) ht

/-- The premise `NoInterrupt` is all a run under `IRQ_MODEL = none` needs to be one under any. -/
theorem run_withIrqModel {n : Nat} {s t : State} (m : IrqModel)
    (h0 : s.cfg.irqModel = .noDelivery) (hn : NoInterrupt n s)
    (h : Host.Core.run Sys2Proof.core n s = .next t) :
    Host.Core.run Sys2Proof.core n (s.withIrqModel m) = .next (t.withIrqModel m) := by
  induction n generalizing s with
  | zero =>
    cases h
    rfl
  | succ n ih =>
    obtain ⟨u, hs, hr⟩ := run_succ_eq_next.1 h
    have hq : ¬ RequestWhileEnabled s := hn 0 s n.succ_pos rfl
    have hu : u.cfg.irqModel = .noDelivery := by rw [(step_pmem_cfg hs).2, h0]
    exact run_succ_eq_next.2 ⟨_, step_withIrqModel m h0 hq hs, ih hu (hn.tail hs) hr⟩

end Sys2Proof.Machine
end

section
/-! SUPPORT. Interrupt entry and the return from it under candidate_A (60_exceptions.md R237). -/

namespace Sys2Proof.Machine

/-! ### Words in data memory -/

/-- A word that stands apart from the bytes written is still there. -/
theorem HoldsWord.of_frame {l : List Reg} {m : List Word} {s t : State} {p v : Word}
    (h : HoldsWord s p v) (hf : Frame l m s t) (h0 : p ∉ m) (h1 : p + 1 ∉ m) :
    HoldsWord t p v := by
  obtain ⟨lower, upper, hl, hu, hv⟩ := h
  exact ⟨lower, upper, (hf.bytes p h0).trans hl, (hf.bytes (p + 1) h1).trans hu, hf.cfg ▸ hv⟩

/-- The word an address lower by two is at another place, and the two words share no byte. -/
theorem PerformedAt.apart {s : State} {a p q : Word} (hp : PerformedAt s a p)
    (hq : PerformedAt s (a - 2) q) : p ∉ [q, q + 1] ∧ p + 1 ∉ [q, q + 1] := by
  have hpe := hp.even
  have hqe := hq.even
  have hne : p ≠ q := by
    rintro rfl
    rcases hp with ⟨-, rfl⟩ | ⟨-, -, hpa⟩ <;> rcases hq with ⟨-, hqa⟩ | ⟨-, -, hqa⟩ <;> bv_omega
  simp only [List.mem_cons, List.not_mem_nil, or_false, not_or]
  refine ⟨⟨hne, ?_⟩, ?_, fun h => hne (by bv_omega)⟩ <;> bv_omega

/-- Writing I leaves unchanged what was unchanged before it. -/
theorem Frame.setI {l : List Reg} {m : List Word} {s t : State} (h : Frame l m s t) (b : Bool) :
    Frame l m s (t.setI b) :=
  h.trans (.of_fields (fun _ _ => rfl) rfl rfl rfl rfl) (fun _ => id) (fun _ => id)

/-! ### When an entry is due -/

theorem passOffer_of_due {s : State} {vector : Word} (h : interruptDue s = some vector) :
    passOffer s = s.withOffers s.irqOffers.tail := by
  obtain ⟨-, hi, ho⟩ := interruptDue_eq_some.1 h
  obtain ⟨rest, ho⟩ := List.head?_eq_some_iff.1 ho
  rw [passOffer_of_behind ho hi, ho, List.tail_cons]

/-- Where an entry is due, the step is the entry, with the request taken from the environment. -/
theorem step_of_due {s : State} {vector : Word} (h : interruptDue s = some vector) :
    step s = interruptEntry vector (s.withOffers s.irqOffers.tail) := by
  simp only [step, h, passOffer_of_due h]

/-! ### Interrupt entry -/

theorem pushWord_of_place_refused {s : State} {v : Word} {e : Refusal}
    (h : wordPlace s (s.get .sp - 2) = .refused e) : pushWord s v = .refused e := by
  rw [pushWord, writeWord_of_place_refused h, andThen_refused]

theorem pushWord_of_not_fits {s : State} {p v : Word} (hp : PerformedAt s (s.get .sp - 2) p)
    (hf : ¬ WordFits s p) : pushWord s v = .refused .addressOutsideMemory := by
  rw [pushWord, writeWord_of_not_fits hp hf, andThen_refused]

/-- What an interrupt entry makes of the state: `pc` stands at `p`, SRAR at `q`, SP is four lower,
and I is cleared. -/
structure EntersInterrupt (s t : State) (vector p q : Word) : Prop where
  savesPc : HoldsWord t p s.pc
  savesFlags : HoldsWord t q (packSrar s.cfg.srarLayout s.flags)
  sp : t.get .sp = s.get .sp - 4
  flags : t.flags = { s.flags with i := false }
  draws : t.draws = s.draws
  pc : t.pc = vector
  frame : Frame [.sp] [p, p + 1, q, q + 1] s t

theorem sub_two_sub_two (a : Word) : a - 2 - 2 = a - 4 := by
  bv_omega

/-- The second of two pushes is performed where its address is, seen from before the first. -/
theorem performedAt_second_push {s s1 : State} {v q : Word} (h : pushWord s v = .next s1) :
    PerformedAt s1 (s1.get .sp - 2) q ↔ PerformedAt s (s.get .sp - 4) q := by
  obtain ⟨_, -, -, -, hsp, -, -, hframe⟩ := pushWord_spec h
  rw [hsp, sub_two_sub_two]
  exact ⟨fun hq => hq.congr hframe.cfg.symm, fun hq => hq.congr hframe.cfg⟩

/-- An entry that completes has pushed two words, apart from each other, at the places of its
pushes. -/
theorem interruptEntry_enters {s t : State} {vector : Word}
    (h : interruptEntry vector s = .next t) :
    ∃ p q, PerformedAt s (s.get .sp - 2) p ∧ PerformedAt s (s.get .sp - 4) q ∧
      EntersInterrupt s t vector p q := by
  obtain ⟨s1, s2, h1, h2, rfl⟩ := interruptEntry_eq_next.1 h
  obtain ⟨p, hp, -, hword1, hsp1, -, ⟨hflags1, hdraws1⟩, hframe1⟩ := pushWord_spec h1
  obtain ⟨q, hq, -, hword2, hsp2, -, ⟨hflags2, hdraws2⟩, hframe2⟩ := pushWord_spec h2
  have hq' : PerformedAt s (s.get .sp - 4) q := (performedAt_second_push h1).1 hq
  obtain ⟨hp0, hp1⟩ := hp.apart (sub_two_sub_two _ ▸ hq')
  have hsecond : Frame [.sp] [q, q + 1] s1 ((s2.setI false).setPc vector) :=
    (hframe2.setI false).setPc vector
  have hwider : Frame [.sp] [p, p + 1, q, q + 1] s1 ((s2.setI false).setPc vector) :=
    hsecond.trans (.refl _ _ _) (by simp) (by simp)
  refine ⟨p, q, hp, hq', ?_⟩
  exact
    { savesPc := hword1.of_frame hsecond hp0 hp1
      savesFlags := hword2
      sp := by rw [State.setPc_get, State.setI_get, hsp2, hsp1, sub_two_sub_two]
      flags := by rw [State.setPc_flags, State.setI_flags, hflags2, hflags1]
      draws := hdraws2.trans hdraws1
      pc := rfl
      frame := hframe1.trans hwider (by simp) (by simp) }

theorem interruptEntry_completes {s : State} {vector p q : Word}
    (hp : PerformedAt s (s.get .sp - 2) p) (hpf : WordFits s p)
    (hq : PerformedAt s (s.get .sp - 4) q) (hqf : WordFits s q) :
    ∃ t, interruptEntry vector s = .next t := by
  have h1 := pushWord_eq_next (v := s.pc).2 ⟨p, hp, hpf, rfl⟩
  have h2 := pushWord_eq_next (v := packSrar s.cfg.srarLayout s.flags).2
    ⟨q, (performedAt_second_push h1).2 hq, hqf, rfl⟩
  exact ⟨_, interruptEntry_eq_next.2 ⟨_, _, h1, h2, rfl⟩⟩

/-- An entry of which one push is outside data memory is refused, the second push alone included. -/
theorem interruptEntry_of_not_fits {s : State} {vector p q : Word}
    (hp : PerformedAt s (s.get .sp - 2) p) (hq : PerformedAt s (s.get .sp - 4) q)
    (hf : ¬ (WordFits s p ∧ WordFits s q)) :
    interruptEntry vector s = .refused .addressOutsideMemory := by
  by_cases hpf : WordFits s p
  · have h1 := pushWord_eq_next (v := s.pc).2 ⟨p, hp, hpf, rfl⟩
    have hqf : ¬ WordFits s q := fun hqf => hf ⟨hpf, hqf⟩
    rw [interruptEntry, h1, andThen_next,
      pushWord_of_not_fits ((performedAt_second_push h1).2 hq) hqf, andThen_refused]
  · rw [interruptEntry, pushWord_of_not_fits hp hpf, andThen_refused]

theorem interruptEntry_of_misaligned {s : State} {vector : Word}
    (ho : (s.get .sp).toNat % 2 = 1) (hm : s.cfg.misaligned = .refuse) :
    interruptEntry vector s = .refused .misalignedWord := by
  have ho' : (s.get .sp - 2).toNat % 2 = 1 := by
    bv_omega
  rw [interruptEntry, pushWord_of_place_refused (wordPlace_eq_refused.2 ⟨⟨ho', hm⟩, rfl⟩),
    andThen_refused]

/-! ### The return from an interrupt -/

/-- The state a `reti` leaves: the flags from a word, `pc` from another, SP four higher. -/
def State.resumed (s : State) (w a : Word) : State :=
  ((s.set .sp (s.get .sp + 4)).setFlags (unpackSrar s.cfg.srarLayout w)).setPc a

theorem State.resumed_sp (s : State) (w a : Word) : (s.resumed w a).get .sp = s.get .sp + 4 :=
  State.get_set_same s .sp _

theorem State.resumed_frame (s : State) (w a : Word) : Frame [.sp] [] s (s.resumed w a) :=
  .of_fields (fun _ hr => State.get_set_ne s _ (by simpa using hr)) rfl rfl rfl rfl

/-- Where the first word is there, the return is one more word read, above it. -/
theorem interruptReturn_of_first {s : State} {p w : Word} (hp : PerformedAt s (s.get .sp) p)
    (hw : HoldsWord s p w) :
    interruptReturn s =
      andThen (readWord s (s.get .sp + 2)) fun a => .next (s.resumed w a) := by
  have hpop := popWord_eq_next.2 ⟨p, hp, hw, rfl⟩
  have hsp : s.get .sp + 2 + 2 = s.get .sp + 4 := by
    bv_omega
  simp only [interruptReturn, hpop, andThen_next, popWord_andThen, State.setFlags_get,
    State.get_set_same, hsp]
  rw [readWord_congr (s := s) rfl rfl]
  rfl

/-- The words an entry has pushed are the ones that a `reti` pops. -/
theorem EntersInterrupt.reti_resumes {s t : State} {vector p q : Word} (x : BitVec 6)
    (h : EntersInterrupt s t vector p q) (hm : s.cfg.irqModel = .candidateA vector)
    (hp : PerformedAt s (s.get .sp - 2) p) (hq : PerformedAt s (s.get .sp - 4) q) :
    exec (.reti x) t = .next (t.resumed (packSrar s.cfg.srarLayout s.flags) s.pc) := by
  have hq' : PerformedAt t (t.get .sp) q := h.sp ▸ hq.congr h.frame.cfg
  have hsp : t.get .sp + 2 = s.get .sp - 2 := by
    rw [h.sp]
    bv_omega
  have hpc : readWord t (t.get .sp + 2) = .next s.pc :=
    readWord_eq_next.2 ⟨p, hsp ▸ hp.congr h.frame.cfg, h.savesPc⟩
  rw [exec_reti_of_candidateA x (h.frame.cfg ▸ hm), interruptReturn_of_first hq' h.savesFlags, hpc,
    andThen_next]

/-- SP is back where it was, and an entry touched no other register. -/
theorem EntersInterrupt.resumed_get {s t : State} {vector p q : Word} (w a : Word)
    (h : EntersInterrupt s t vector p q) (r : Reg) : (t.resumed w a).get r = s.get r :=
  State.get_set_restore (by rw [h.sp, BitVec.sub_add_cancel])
    (fun r hr => h.frame.regs r (by simpa using hr)) r

end Sys2Proof.Machine
end

section
/-! SUPPORT. What has no successor for want of a value, and what stops for no such want
(70_reset_and_hazards.md R252). -/

namespace Sys2Proof.Machine

/-! ### A store reads nothing -/

/-- The operation does not fault. -/
def NeverFaults {α : Type} (r : Res α) : Prop := ∀ e, r ≠ .fault e

theorem NeverFaults.next {α : Type} (a : α) : NeverFaults (.next a : Res α) := nofun

theorem NeverFaults.andThen {α β : Type} {r : Res α} {f : α → Res β} (hr : NeverFaults r)
    (hf : ∀ a, NeverFaults (f a)) : NeverFaults (andThen r f) := by
  cases r with
  | next a => exact hf a
  | fault e => exact absurd rfl (hr e)
  | refused => exact nofun

theorem wordPlace_neverFaults (s : State) (a : Word) : NeverFaults (wordPlace s a) := by
  unfold wordPlace
  split
  · split <;> exact nofun
  · exact nofun

theorem writeByte_neverFaults (s : State) (a : Word) (b : Byte) :
    NeverFaults (writeByte s a b) := by
  unfold writeByte
  split <;> exact nofun

theorem writeWord_neverFaults (s : State) (a v : Word) : NeverFaults (writeWord s a v) := by
  refine (wordPlace_neverFaults s a).andThen fun p => ?_
  split
  · exact (writeByte_neverFaults s p _).andThen fun t => writeByte_neverFaults t (p + 1) _
  · exact nofun

theorem pushWord_neverFaults (s : State) (v : Word) : NeverFaults (pushWord s v) :=
  (writeWord_neverFaults s _ v).andThen fun _ => .next _

theorem exec_byteStore_neverFaults {i : Instr} {s : State} {a : Word}
    (h : byteStoreAt i s = some a) : NeverFaults (exec i s) := by
  cases i with
  | mov8rm | mov8rn | mov8ra | mov8rM =>
    exact (writeByte_neverFaults s _ _).andThen fun _ => .next _
  | _ => cases h

theorem exec_wordStore_neverFaults {i : Instr} {s : State} {a : Word}
    (h : wordStoreAt i s = some a) : NeverFaults (exec i s) := by
  cases i with
  | mov16rm | mov16rn | mov16ra | mov16rM =>
    exact (writeWord_neverFaults s _ _).andThen fun _ => .next _
  | callrel | calladr | callreg => exact (pushWord_neverFaults s _).andThen fun _ => .next _
  | push x rd =>
    obtain ⟨hsp, -⟩ := Option.ite_none_left_eq_some.1 h
    simp only [exec, execPush, if_neg hsp]
    exact (pushWord_neverFaults s _).andThen fun _ => .next _
  | _ => cases h

/-! ### The fetch -/

theorem fetchInstr_of_first_fault {s : State} {e : Fault} (h : readProg s s.pc = .fault e) :
    fetchInstr s = .fault e := by
  simp only [fetchInstr, h, andThen_fault]

theorem fetchInstr_of_second_fault {s : State} {w : Word} {e : Fault}
    (hw : readProg s s.pc = .next w) (hx : (decode w 0).wellFormed s.cfg.strictX = true)
    (h2 : twoWords w = true) (h : readProg s (s.pc + 1) = .fault e) :
    fetchInstr s = .fault e := by
  simp only [fetchInstr, hw, andThen_next, hx, h2, if_true, h, andThen_fault]

theorem step_of_noInterrupt {s : State} (h : NoInterrupt 1 s) :
    step s = andThen (fetchInstr s) fun i => exec i (passOffer s) :=
  step_of_notDue (interruptDue_none_of_quiet (noInterrupt_one.1 h))

end Sys2Proof.Machine
end

section
/-! SUPPORT. The end of a run: a jump to the jump itself (70_reset_and_hazards.md R254). -/

namespace Sys2Proof.Machine

/-! ### Targets that are the jump's own address -/

theorem RelativeTarget.unique {s : State} {k : Int} {target target' : Word}
    (h : RelativeTarget s k target) (h' : RelativeTarget s k target') : target = target' := by
  apply BitVec.eq_of_toNat_eq
  unfold RelativeTarget at h h'
  cases hb : s.cfg.relBase <;> simp only [hb] at h h' <;> omega

/-- The offset of a `jmprel` to itself, by `REL_BASE`. -/
def selfOffset (r : RelBase) : BitVec 12 :=
  match r with
  | .next => 0xFFF
  | .self => 0x000

theorem relativeTarget_pc_iff (s : State) (a : BitVec 12) :
    RelativeTarget s a.toInt s.pc ↔ a = selfOffset s.cfg.relBase := by
  have hp := s.pc.isLt
  have ha := a.isLt
  have hi := BitVec.toInt_eq_toNat_cond a
  rw [← BitVec.toNat_inj]
  unfold RelativeTarget selfOffset
  cases s.cfg.relBase <;> simp only [BitVec.ofNat_eq_ofNat, BitVec.toNat_ofNat] <;>
    split at hi <;> omega

theorem decode_eq_jmprel_iff (w k : Word) (a : BitVec 12) :
    decode w k = .jmprel a ↔ w = encodeT1 0 a :=
  decode_eq_iff_of_one rfl rfl w k

theorem State.setPc_of_eq {s : State} {target : Word} (h : target = s.pc) :
    s.setPc target = s := by
  rw [h]
  rfl

theorem exec_jmprel_self {s : State} {a : BitVec 12} (h : RelativeTarget s a.toInt s.pc) :
    exec (.jmprel a) s = .next s := by
  rw [exec_jmprel, State.setPc_of_eq ((relTarget_sext12 s a).unique h)]

theorem exec_branchInstr_self {s : State} {cc : Cond} {a : BitVec 10} (hc : CondTests cc s.flags)
    (h : RelativeTarget s a.toInt s.pc) : exec (branchInstr cc a) s = .next s := by
  rw [exec_branchInstr_taken a hc, State.setPc_of_eq ((relTarget_sext10 s a).unique h)]

/-! ### The step and the run at the end of a run -/

theorem EndOfRun.fetchInstr_eq {s : State} (h : EndOfRun s) :
    fetchInstr s = .next (.jmprel (selfOffset s.cfg.relBase)) := by
  have hw : readProg s s.pc = .next (encodeT1 0 (selfOffset s.cfg.relBase)) := by
    unfold EndOfRun at h
    cases hb : s.cfg.relBase <;> simp only [hb] at h <;> exact h
  have hd := (decode_eq_jmprel_iff _ 0 (selfOffset s.cfg.relBase)).2 rfl
  have h2 : twoWords (encodeT1 0 (selfOffset s.cfg.relBase)) = false := by
    rw [twoWords, hd]
  refine fetchInstr_eq_next.2 ⟨_, hw, ?_, .inl ⟨h2, hd.symm⟩⟩
  rw [hd]
  exact Bool.or_true _

theorem EndOfRun.step_eq {s : State} (h : EndOfRun s) (hn : NoInterrupt 1 s) :
    step s = .next (passOffer s) := by
  rw [step_of_noInterrupt hn, h.fetchInstr_eq, andThen_next]
  refine exec_jmprel_self ((relativeTarget_pc_iff _ _).2 ?_)
  rw [passOffer_cfg]

/-- The end of a run is the end whatever the environment offers there. -/
theorem EndOfRun.at_next_boundary {s : State} (h : EndOfRun s) : EndOfRun (passOffer s) := by
  rw [passOffer_eq_withOffers]
  exact h

/-- From the end of a run on, the offers pass their boundaries and nothing else happens. -/
theorem EndOfRun.run_eq {n : Nat} {s : State} (h : EndOfRun s) (hn : NoInterrupt n s) :
    Host.Core.run Sys2Proof.core n s = .next (passOffer^[n] s) := by
  induction n generalizing s with
  | zero => rfl
  | succ n ih =>
    have hs := h.step_eq (noInterrupt_one.2 (hn 0 s n.succ_pos rfl))
    rw [run_succ_of_step n hs, Function.iterate_succ_apply]
    exact ih h.at_next_boundary (hn.tail hs)

theorem iterate_passOffer (n : Nat) (s : State) :
    ∃ l, passOffer^[n] s = s.withOffers l := by
  induction n with
  | zero => exact ⟨s.irqOffers, rfl⟩
  | succ n ih =>
    obtain ⟨l, hl⟩ := ih
    rw [Function.iterate_succ_apply', hl, passOffer_eq_withOffers]
    exact ⟨_, rfl⟩

end Sys2Proof.Machine
end

section
/-! PROOFS. The statements on 60_exceptions.md. -/

open Sys2Proof Sys2Proof.Machine

/-- Settles O11: no instruction but `reti` asks for the environment, and `reti` has no meaning in
the default model. -/
theorem defaultModelIgnoresEnvironment : Obligations.DefaultModelIgnoresEnvironment := by
  refine ⟨fun s l h => ?_, fun n s t hn h =>
    run_withIrqModel (s := s.withIrqModel .noDelivery) s.cfg.irqModel rfl hn h⟩
  rw [step_withOffers l h, passOffer_eq_withOffers (s.withOffers l)]
  rfl

/-- Settles O13: where an entry is due, each of its two pushes is refused or has its place, and the
second leaves the word of the first. -/
theorem interruptEntrySavesAndVectors : Obligations.InterruptEntrySavesAndVectors := by
  refine ⟨fun _ _ => interruptDue_eq_some, fun s vector hd => ?_,
    fun s vector p q hd hp hpf hq hqf => ?_⟩
  · rw [step_of_due hd]
    exact ⟨interruptEntry_of_misaligned (s := s.withOffers s.irqOffers.tail),
      fun _ _ => interruptEntry_of_not_fits (s := s.withOffers s.irqOffers.tail)⟩
  · obtain ⟨t, ht⟩ := interruptEntry_completes (s := s.withOffers s.irqOffers.tail)
      (vector := vector) hp hpf hq hqf
    obtain ⟨p', q', hp', hq', e⟩ := interruptEntry_enters ht
    obtain rfl := hp.unique hp'
    obtain rfl := hq.unique hq'
    rw [step_of_due hd, passOffer_of_due hd]
    exact ⟨t, ht, e.savesPc, ⟨_, e.savesFlags, packSrar_getLsbD _ _⟩, e.sp, e.flags, e.draws, e.pc,
      e.frame.offers, e.frame⟩

/-- Settles O14: once the first word is read, the return stops exactly where the read of the second
does, and else writes the seven flags, SP and `pc`. -/
theorem interruptReturnRestores : Obligations.InterruptReturnRestores := by
  intro s x vector p q w hm hp hw hq
  rw [exec_reti_of_candidateA x hm, interruptReturn_of_first hp hw]
  refine ⟨fun ho => ?_, fun hn => ?_, fun a ha => ?_⟩
  · rw [(readWord_eq_outside hq).2 ho, andThen_refused]
  · rw [(readWord_eq_fault hq).2 hn, andThen_fault]
  · rw [readWord_eq_next.2 ⟨q, hq, ha⟩, andThen_next]
    exact ⟨_, rfl, rfl, s.resumed_sp w a, rfl, rfl, rfl, rfl, rfl, rfl, rfl, rfl,
      s.resumed_frame w a⟩

/-- Settles O15: the return pops the two words the entry pushed, and unpacking undoes packing. -/
theorem entryThenReturnRestores : Obligations.EntryThenReturnRestores := by
  intro s t x vector hd hl h
  obtain ⟨hm, -⟩ := interruptDue_eq_some.1 hd
  rw [step_of_due hd] at h
  obtain ⟨p, q, hp, hq, e⟩ := interruptEntry_enters h
  refine ⟨_, e.reti_resumes x hm hp hq, rfl, ?_, e.resumed_get _ _⟩
  show unpackSrar t.cfg.srarLayout (packSrar s.cfg.srarLayout s.flags) = s.flags
  rw [e.frame.cfg]
  exact unpackSrar_packSrar _ _ hl

end

section
/-! PROOFS. The statements on 70_reset_and_hazards.md. -/

open Sys2Proof Sys2Proof.Machine

/-- Settles O9: the read of either word of the instruction faults, and the fetch and the step with
it. -/
theorem fetchOfUnloadedWordFaults : Obligations.FetchOfUnloadedWordFaults := by
  refine fun s hn => ⟨fun hin hnone => ?_, fun w hw hx h2 hin hnone => ?_⟩
  · rw [step_of_noInterrupt hn, fetchInstr_of_first_fault (readProg_eq_fault.2 ⟨hin, hnone⟩),
      andThen_fault]
  · rw [step_of_noInterrupt hn,
      fetchInstr_of_second_fault hw hx h2 (readProg_eq_fault.2 ⟨hin, hnone⟩), andThen_fault]

/-- Settles O52: the access a load makes first faults, and no operation of a store can. -/
theorem unwrittenDataFaults : Obligations.UnwrittenDataFaults := by
  refine ⟨fun i s a h hin hnone => ?_, fun i s a p h hp hn => ?_, fun i s a e h => ?_⟩
  · obtain ⟨f, hexec⟩ := exec_byteLoad h
    rw [hexec, readByte_eq_fault.2 ⟨hin, hnone⟩, andThen_fault]
  · obtain ⟨f, hexec⟩ := exec_wordLoad h
    rw [hexec, (readWord_eq_fault hp).2 hn, andThen_fault]
  · exact h.elim exec_byteStore_neverFaults exec_wordStore_neverFaults e

/-- Settles O10: the one offset that comes back to `pc` is -1, or 0 with `REL_BASE = self`, and a
jump to `pc` changes nothing. -/
theorem endOfRunIsFixedPoint : Obligations.EndOfRunIsFixedPoint := by
  refine ⟨fun s hn h => ⟨h.step_eq hn, ?_, fun ho => ?_⟩, fun n s hn h => ⟨?_, fun ho => ?_⟩,
    fun s w k => ?_, fun s cc a => exec_branchInstr_self, fun s x rd h => ?_⟩
  · rw [h.step_eq hn, passOffer_eq_withOffers]
    exact ⟨_, rfl⟩
  · rw [h.step_eq hn, passOffer_of_nil ho]
  · obtain ⟨l, hl⟩ := iterate_passOffer n s
    rw [h.run_eq hn, hl]
    exact ⟨l, rfl⟩
  · rw [h.run_eq hn, Function.iterate_fixed (passOffer_of_nil ho)]
  · simp only [decode_eq_jmprel_iff, relativeTarget_pc_iff, exists_eq_right]
    cases s.cfg.relBase <;> simp [selfOffset, encodeT1]
  · rw [exec_jmpreg, State.setPc_of_eq h]

end
